-- ==== Sys2Proof/Word.lean ====
section
/-! DEFINITION. Word types of the block (00_scope.md R9: every value is unsigned, bit 0 is the least significant). -/

namespace Sys2Proof

/-- A 32-bit host bus word: a register value or a command word (R21, R80). -/
abbrev Word := BitVec 32

/-- A 16-bit value: a colour (R36) or the RawSample (R35). -/
abbrev Half := BitVec 16

/-- A SegmentBitmap: 7 bits, bit 6 is segment A and bit 0 segment G (R142). -/
abbrev Bitmap := BitVec 7

end Sys2Proof
end

