-- ==== Sys2Proof/Config.lean ====
section
/-! DEFINITION. The implementation parameters (00_scope.md R6), their constraints (R7), and the free values of the outside world. -/

namespace Sys2Proof

/-- The rectangle of a segment, relative to its slot's x offset (41_renderer.md R149): the four coordinates of D30. That they
are natural numbers is the model's choice (DESIGN CHOICE, log 24). -/
structure Rect where
  x0 : Nat
  x1 : Nat
  y0 : Nat
  y1 : Nat
  deriving DecidableEq, Repr

/-- The parameter set of R6. Durations are in microseconds. The model takes each as an argument: a state carries one set,
which no step changes (log 2). -/
structure Params where
  /-- TICKS_PER_US: clock periods per µs. -/
  ticksPerUs : Nat
  /-- T_RST_LOW: reset, line held low. -/
  tRstLow : Nat
  /-- T_RST_WAIT: reset, released before the presence sample. -/
  tRstWait : Nat
  /-- T_W1_LOW: write-1 slot, low time. -/
  tW1Low : Nat
  /-- T_W1_REL: write-1 slot, release time. -/
  tW1Rel : Nat
  /-- T_W0_LOW: write-0 slot, low time. -/
  tW0Low : Nat
  /-- T_W0_REL: write-0 slot, release time. -/
  tW0Rel : Nat
  /-- T_R_LOW: read slot, low time. -/
  tRLow : Nat
  /-- T_R_SAMPLE: read slot, release before the sample. -/
  tRSample : Nat
  /-- T_R_IDLE: read slot, idle after the sample. -/
  tRIdle : Nat
  /-- T_CONV: conversion delay of OW_READ_TEMP. -/
  tConv : Nat
  /-- SYNC_STAGES: input synchronizer depth. -/
  syncStages : Nat
  /-- CNT_WIDTH: phase tick counter width in bits. -/
  cntWidth : Nat
  /-- XOFF_LEFT: x offset of slot 0. -/
  xoffLeft : BitVec 7
  /-- XOFF_RIGHT: x offset of slot 1. -/
  xoffRight : BitVec 7
  /-- BASE_ADDR: byte address of the register window. -/
  baseAddr : Nat
  /-- SEG_RECT: the rectangle of each segment, A to G; read by the display adapter alone, no step depends on it. -/
  segRect : Vector Rect 7
  deriving DecidableEq, Repr

/-- The default of CNT_WIDTH, ⌈log2(T_CONV × TICKS_PER_US + 1)⌉ (R6, D33), written with the floor logarithm. -/
def Params.defaultCntWidth (tConv ticksPerUs : Nat) : Nat := Nat.log2 (tConv * ticksPerUs) + 1

/-- The defaults of R6 at a given TICKS_PER_US, BASE_ADDR and SEG_RECT, the OPEN parameters. -/
def Params.defaults (ticksPerUs baseAddr : Nat) (segRect : Vector Rect 7) : Params where
  ticksPerUs := ticksPerUs
  tRstLow := 480
  tRstWait := 480
  tW1Low := 5
  tW1Rel := 56
  tW0Low := 60
  tW0Rel := 1
  tRLow := 5
  tRSample := 10
  tRIdle := 45
  tConv := 750000
  syncStages := 2
  cntWidth := Params.defaultCntWidth 750000 ticksPerUs
  xoffLeft := 0#7
  xoffRight := 63#7
  baseAddr := baseAddr
  segRect := segRect

/-- The parameters of State.reset: the defaults, with TICKS_PER_US = 1, BASE_ADDR = 0 and all coordinates 0 (DESIGN CHOICE,
logs 2, 3 and 24). -/
def Params.default : Params := Params.defaults 1 0 (Vector.replicate 7 ⟨0, 0, 0, 0⟩)

/-- Every duration parameter of R6. -/
def Params.durations (p : Params) : List Nat :=
  [p.tRstLow, p.tRstWait, p.tW1Low, p.tW1Rel, p.tW0Low, p.tW0Rel, p.tRLow, p.tRSample, p.tRIdle, p.tConv]

/-- The constraints of R7, and the alignment of BASE_ADDR (R6, R72). A parameter set that breaks one is not an OWPE. -/
abbrev Params.Ok (p : Params) : Prop :=
  (∀ d ∈ p.durations, 1 ≤ d) ∧
  480 ≤ p.tRstLow ∧
  750000 ≤ p.tConv ∧
  1 ≤ p.ticksPerUs ∧
  1 ≤ p.syncStages ∧
  p.syncStages ≤ p.tRSample * p.ticksPerUs ∧
  p.syncStages ≤ p.tRstWait * p.ticksPerUs ∧
  (∀ d ∈ p.durations, d * p.ticksPerUs < 2 ^ p.cntWidth) ∧
  p.baseAddr % 32 = 0

/-- FREE VALUE: the level of `ow_in` in a cycle for which no level is listed (R104, D31, U22: the bus agent, under no law; log 1). -/
opaque Config.freeOwIn : Nat → Bool

/-- FREE VALUE: the level of `seg_ready` in a cycle for which no level is listed (R145, D39, U18: the display sink; log 1). -/
opaque Config.freeSegReady : Nat → Bool

end Sys2Proof
end

