-- ==== Sys2Proof/Syntax.lean ====
section
/-! DEFINITION. The commands of the block, one constructor per row of spec/opcode_table.json (30_encoding.md R83), and the names their operands use. -/

namespace Sys2Proof

/-- The two digit slots (R39): slot 0 is left, slot 1 is right. -/
inductive Slot where
  | left
  | right
  deriving DecidableEq, Repr

/-- A command with its operands (R83, R84). A digit of 10 to 15 is a term of this type that is not well formed (R87). -/
inductive Instr where
  /-- OW_RESET, R113. -/
  | owReset
  /-- OW_WRITE_BYTE, R114. -/
  | owWriteByte (byte : BitVec 8)
  /-- OW_READ_WORD, R115. -/
  | owReadWord
  /-- OW_READ_TEMP, R116. -/
  | owReadTemp
  /-- DSR_RENDER_FIRST, R146. -/
  | dsrRenderFirst (slot : Slot) (digit : BitVec 4)
  /-- DSR_RENDER, R147. -/
  | dsrRender (slot : Slot) (digit : BitVec 4)
  /-- DSR_INVALIDATE, R148. -/
  | dsrInvalidate
  deriving DecidableEq, Repr

/-- Why a CMD write is rejected (60_exceptions.md R172). Code 0, NONE, is no rejection. -/
inductive Cause where
  | reservedOpcode
  | reservedField
  | digitRange
  | overrun
  deriving DecidableEq, Repr

/-- The three command formats (R82). -/
inductive Format where
  /-- No operand. -/
  | N
  /-- A byte in bits [15:8]. -/
  | B
  /-- A slot in bit [16] and a digit in bits [11:8]. -/
  | D
  deriving DecidableEq, Repr

end Sys2Proof
end

