-- ==== Sys2Proof/WellFormed.lean ====
section
/-! DEFINITION. Which terms of Instr are commands: a digit is 0 to 9 (30_encoding.md R84, R87). -/

namespace Sys2Proof

/-- The digit range of format D (R87). -/
def digitOk (digit : BitVec 4) : Bool := decide (digit.toNat ≤ 9)

/-- The check of every operand of a command. A byte and a slot have no illegal value (R84). -/
def Instr.wf : Instr → Bool
  | .owReset => true
  | .owWriteByte _ => true
  | .owReadWord => true
  | .owReadTemp => true
  | .dsrRenderFirst _ digit => digitOk digit
  | .dsrRender _ digit => digitOk digit
  | .dsrInvalidate => true

/-- A well-formed command. -/
abbrev Instr.WellFormed (i : Instr) : Prop := i.wf = true

end Sys2Proof
end

