-- ==== Sys2Proof/Decode.lean ====
section
/-! DEFINITION. The decoder, total on all 2^32 words (30_encoding.md R88, R89), and the encoder (R82, R83, R90). -/

namespace Sys2Proof

/-- The bit of a slot (R81): 0 = left, 1 = right. -/
def Slot.bit : Slot → BitVec 1
  | .left => 0#1
  | .right => 1#1

/-- The slot a bit names (R81). -/
def Slot.ofBit (b : Bool) : Slot := if b then .right else .left

/-- `op` = w[3:0] (R81). -/
def opField (w : Word) : BitVec 4 := w.extractLsb' 0 4

/-- `byte` = w[15:8] (R81, R84). -/
def byteField (w : Word) : BitVec 8 := w.extractLsb' 8 8

/-- `digit` = w[11:8] (R81, R84). -/
def digitField (w : Word) : BitVec 4 := w.extractLsb' 8 4

/-- `slot` = w[16] (R81, R84). -/
def slotField (w : Word) : Slot := Slot.ofBit (w.getLsbD 16)

/-- The fixed-bit mask of a format (R82). -/
def Format.mask : Format → Word
  | .N => 0xFFFFFFFF#32
  | .B => 0xFFFF00FF#32
  | .D => 0xFFFEF0FF#32

/-- The opcode map (R83): the format and the command of a defined `op`, its operands taken from `w`; none for a reserved `op` (R85). -/
def opcodeMap (w : Word) : Option (Format × Instr) :=
  match (opField w).toNat with
  | 0x1 => some (.N, .owReset)
  | 0x2 => some (.B, .owWriteByte (byteField w))
  | 0x3 => some (.N, .owReadWord)
  | 0x4 => some (.N, .owReadTemp)
  | 0x8 => some (.D, .dsrRenderFirst (slotField w) (digitField w))
  | 0x9 => some (.D, .dsrRender (slotField w) (digitField w))
  | 0xA => some (.N, .dsrInvalidate)
  | _ => none

/-- What a word spells (R88): one command, or one cause of rejection. -/
inductive Decoded where
  | command (i : Instr)
  | reject (c : Cause)
  deriving DecidableEq, Repr

/-- Decode (R89). The order of the checks is the priority of R174: opcode, reserved fields, digit. -/
def decode (w : Word) : Decoded :=
  match opcodeMap w with
  | none => .reject .reservedOpcode
  | some (fmt, i) =>
    if w &&& fmt.mask ≠ (opField w).setWidth 32 then .reject .reservedField
    else if fmt = .D ∧ 9 < (digitField w).toNat then .reject .digitRange
    else .command i

/-- The format of a command (R82). -/
def Instr.format : Instr → Format
  | .owReset => .N
  | .owWriteByte _ => .B
  | .owReadWord => .N
  | .owReadTemp => .N
  | .dsrRenderFirst _ _ => .D
  | .dsrRender _ _ => .D
  | .dsrInvalidate => .N

/-- The opcode of a command (R83). -/
def Instr.op : Instr → BitVec 4
  | .owReset => 0x1#4
  | .owWriteByte _ => 0x2#4
  | .owReadWord => 0x3#4
  | .owReadTemp => 0x4#4
  | .dsrRenderFirst _ _ => 0x8#4
  | .dsrRender _ _ => 0x9#4
  | .dsrInvalidate => 0xA#4

/-- The operand bits of format D in place (R90): `(digit << 8) or (slot << 16)`. -/
def operandsD (slot : Slot) (digit : BitVec 4) : Word :=
  (digit.setWidth 32 <<< 8) ||| (slot.bit.setWidth 32 <<< 16)

/-- The word of a command (R83, R90). -/
def encode : Instr → Word
  | .owReset => 0x00000001#32
  | .owWriteByte byte => 0x00000002#32 ||| (byte.setWidth 32 <<< 8)
  | .owReadWord => 0x00000003#32
  | .owReadTemp => 0x00000004#32
  | .dsrRenderFirst slot digit => 0x00000008#32 ||| operandsD slot digit
  | .dsrRender slot digit => 0x00000009#32 ||| operandsD slot digit
  | .dsrInvalidate => 0x0000000A#32

/-- The decoder on an instruction given as a number, bit 0 the least significant bit of the one 32-bit word of a command
(R80: every command is one word). Bits of `w` from `nbits` on are taken as 0. -/
def decodeTableWord (nbits w : Nat) : Option Instr :=
  match decode (BitVec.ofNat 32 (w % 2 ^ nbits)) with
  | .command i => some i
  | .reject _ => none

end Sys2Proof
end

