-- ==== Sys2Proof/Machine/State.lean ====
section
/-! DEFINITION. The state of the block (10_state.md R25 to R45), the reasons a step can stop, and the state after reset. -/

namespace Sys2Proof.Machine

/-- What is captured at the end edge of a phase (40_onewire.md R102). -/
inductive Tag where
  /-- Nothing. -/
  | none
  /-- The presence sample of a reset waveform. -/
  | presence
  /-- Read bit `i`. -/
  | bit (i : Fin 16)
  deriving DecidableEq, Repr

/-- A phase of a waveform (R102): `drive` true pulls the line low, `us` is its duration in µs. -/
structure Phase where
  drive : Bool
  us : Nat
  tag : Tag
  deriving DecidableEq, Repr

/-- A segment op (41_renderer.md R143). `seg` is the canonical index, A = 0 to G = 6. -/
structure SegOp where
  slot : Slot
  seg : BitVec 3
  color : Half
  erase : Bool
  deriving DecidableEq, Repr

/-- What the `seg_*` outputs present while `seg_valid` = 1 (10_state.md R23). -/
structure SegOut where
  slot : Slot
  index : BitVec 3
  color : Half
  erase : Bool
  xoff : BitVec 7
  deriving DecidableEq, Repr

/-- The latched operands (10_state.md R41). -/
structure Latched where
  op : BitVec 4
  arg : BitVec 8
  slot : Slot
  fg : Half
  bg : Half
  deriving DecidableEq, Repr

/-- The sequencer's mode (10_state.md R42). -/
inductive Mode where
  | idle
  | owRun
  | dsrRun
  deriving DecidableEq, Repr

/-- The sequencer position (10_state.md R42): `(wave, k, t)` with `rshift` and `pres_tmp` in OW_RUN, `(ops, j)` in DSR_RUN. -/
structure Sequencer where
  mode : Mode
  wave : List Phase
  k : Nat
  t : Nat
  rshift : Half
  presTmp : Bool
  ops : List SegOp
  j : Nat
  deriving DecidableEq, Repr

/-- The levels the host and the platform drive in one cycle: `rst` (R20) and the host port (R21). -/
structure HostCycle where
  rst : Bool
  hWr : Bool
  hRd : Bool
  hAddr : BitVec 5
  hWdata : Word
  deriving DecidableEq, Repr

/-- The inputs of the block in this cycle and in the cycles after it, oldest first, as far as they are listed (log 1). -/
structure Env where
  /-- How many edges have passed: what the free values are drawn by. -/
  cycle : Nat
  /-- `rst` and the host port; the host is idle in a cycle that is not listed. -/
  host : List HostCycle
  /-- The level of `ow_in`; a free value in a cycle that is not listed. -/
  owIn : List Bool
  /-- The level of `seg_ready`; a free value in a cycle that is not listed. -/
  segReady : List Bool
  deriving DecidableEq, Repr

/-- The state in one cycle: what the registers and outputs hold after an edge and before the next (00_scope.md R10). -/
structure State where
  /-- The parameters (00_scope.md R6), which no step changes. -/
  params : Params
  /-- STATUS.DONE (R29). -/
  done : Bool
  /-- STATUS.CMD_ERR (R30). -/
  cmdErr : Bool
  /-- STATUS.OVERRUN (R31). -/
  overrun : Bool
  /-- STATUS.PRESENCE (R32). -/
  presence : Bool
  /-- STATUS.PRES_VALID (R33). -/
  presValid : Bool
  /-- STATUS.CAUSE (R34). -/
  cause : BitVec 4
  /-- OW_DATA.RDATA (R35). -/
  rdata : Half
  /-- COLOR.FG (R36). -/
  fg : Half
  /-- COLOR.BG (R36). -/
  bg : Half
  /-- IE.DONE_IE (R38). -/
  doneIe : Bool
  /-- IE.ERR_IE (R38). -/
  errIe : Bool
  /-- SLOT[0] (R39). -/
  slotLeft : Bitmap
  /-- SLOT[1] (R39). -/
  slotRight : Bitmap
  /-- The latched operands (R41). -/
  lat : Latched
  /-- The sequencer position (R42). -/
  seq : Sequencer
  /-- The synchronizer (R43), stage 0 first. -/
  sync : List Bool
  /-- The output `ow_drive_low` (R22). -/
  owDriveLow : Bool
  /-- The outputs `seg_*` (R23): `some` while `seg_valid` = 1, with what they present; `none` while `seg_valid` = 0, when the
  others have no meaning (log 7). -/
  seg : Option SegOut
  /-- The output `irq` (R24). -/
  irq : Bool
  /-- The inputs (the model's own field, log 1). -/
  env : Env
  deriving DecidableEq, Repr

/-- Reasons a step stops with a fault. There are none: the block has no traps (60_exceptions.md R170), every register access
is carried out (R63, R64, R66) and every command word is executed or rejected with an effect the spec gives (R88, R175). -/
inductive Fault where
  deriving DecidableEq, Repr

/-- Reasons a step is refused. -/
inductive Refusal where
  /-- Raised by an arm of exec whose instruction has no meaning yet; no arm does. Safe: the model stops where the hardware goes on. -/
  | notModelled (mnemonic : String)
  deriving DecidableEq, Repr

/-- The latched operands at reset: the spec leaves them unspecified; the model names zero (DESIGN CHOICE, log 5). -/
def Latched.reset : Latched where
  op := 0#4
  arg := 0#8
  slot := .left
  fg := 0#16
  bg := 0#16

/-- The sequencer at reset (R42): mode IDLE; the rest is unspecified, and the model names empty and zero (DESIGN CHOICE, log 6). -/
def Sequencer.reset : Sequencer where
  mode := .idle
  wave := []
  k := 0
  t := 0
  rshift := 0#16
  presTmp := false
  ops := []
  j := 0

/-- The inputs with nothing listed. -/
def Env.reset : Env where
  cycle := 0
  host := []
  owIn := []
  segReady := []

/-- The reset state (R45, R190) of a block with parameters `p`, before the inputs `e`. -/
def State.resetWith (p : Params) (e : Env) : State where
  params := p
  done := false
  cmdErr := false
  overrun := false
  presence := false
  presValid := false
  cause := 0#4
  rdata := 0#16
  fg := 0#16
  bg := 0#16
  doneIe := false
  errIe := false
  slotLeft := 0#7
  slotRight := 0#7
  lat := Latched.reset
  seq := Sequencer.reset
  sync := List.replicate p.syncStages true
  owDriveLow := false
  seg := none
  irq := false
  env := e

/-- The machine right after reset (R192). -/
def State.reset : State := State.resetWith Params.default Env.reset

end Sys2Proof.Machine
end

