-- ==== Sys2Proof/Machine/Flags.lean ====
section
/-! DEFINITION. STATUS: its bits as the host reads them, its cause codes, its write-1-to-clear bits, and the interrupt they drive. -/

namespace Sys2Proof.Machine

/-- STATUS.BUSY (R28): 1 exactly when the mode is not IDLE (R42). -/
def State.busy (s : State) : Bool :=
  match s.seq.mode with
  | .idle => false
  | .owRun => true
  | .dsrRun => true

/-- The code a rejection writes into STATUS.CAUSE (60_exceptions.md R172). -/
def causeCode : Cause → BitVec 4
  | .reservedOpcode => 1#4
  | .reservedField => 2#4
  | .digitRange => 3#4
  | .overrun => 4#4

/-- STATUS as the host reads it (20_memory.md R63): `zext_32` of CAUSE, two reserved zeros, PRES_VALID, PRESENCE, OVERRUN,
CMD_ERR, DONE, BUSY, most significant first. -/
def State.statusWord (s : State) : Word :=
  (s.cause ++ 0#2 ++ BitVec.ofBool s.presValid ++ BitVec.ofBool s.presence ++ BitVec.ofBool s.overrun ++
    BitVec.ofBool s.cmdErr ++ BitVec.ofBool s.done ++ BitVec.ofBool s.busy).setWidth 32

/-- A STATUS bit after a host write at the same edge (R64, R65): a 1 written clears it, unless the edge also sets it. -/
def w1c (old written set : Bool) : Bool :=
  if written && !set then false else old

/-- The host's write of `v` to STATUS (R64). `doneSet` says that a command completes at this edge. No rejection falls on the
edge of a STATUS write: a rejection needs a CMD write, and the port carries one write a cycle (R21, R174; log 12). -/
def State.writeStatus (doneSet : Bool) (v : Word) (s : State) : State :=
  { s with
    done := w1c s.done (v.getLsbD 1) doneSet
    cmdErr := w1c s.cmdErr (v.getLsbD 2) false
    overrun := w1c s.overrun (v.getLsbD 3) false }

/-- The value `irq` takes at the next edge (60_exceptions.md R177), from the flags and enables as they stand now. -/
def State.irqNext (s : State) : Bool :=
  (s.done && s.doneIe) || ((s.cmdErr || s.overrun) && s.errIe)

end Sys2Proof.Machine
end

