-- ==== Sys2Proof/Machine/Operands.lean ====
section
/-! DEFINITION. Operands of commands: the latches (10_state.md R41), the slot file (R39) and the segment ROM (41_renderer.md R140). -/

namespace Sys2Proof.Machine

/-- Latch a command's operands at its accepting edge (R41, D11, D15): `op` = w[3:0], `arg` = w[15:8] and `slot` = w[16] of the
command word, with the colours COLOR holds. -/
def State.latch (op : BitVec 4) (arg : BitVec 8) (slot : Slot) (s : State) : State :=
  { s with lat := { op := op, arg := arg, slot := slot, fg := s.fg, bg := s.bg } }

/-- The digit of a latched format-D argument: w[11:8] is `arg`[3:0] (R81). -/
def argDigit (arg : BitVec 8) : BitVec 4 := arg.extractLsb' 0 4

/-- The argument byte w[15:8] of a format-D word with its reserved bits 0 (R82). -/
def digitArg (digit : BitVec 4) : BitVec 8 := digit.setWidth 8

/-- `SLOT[slot]` (R39). -/
def State.slot (s : State) : Slot → Bitmap
  | .left => s.slotLeft
  | .right => s.slotRight

/-- `SLOT[slot] <- v` (R39). -/
def State.setSlot (slot : Slot) (v : Bitmap) (s : State) : State :=
  match slot with
  | .left => { s with slotLeft := v }
  | .right => { s with slotRight := v }

/-- The source's table BIT_MAP[0..9] (R140). -/
def romTable : List Bitmap :=
  [0x7E#7, 0x30#7, 0x6D#7, 0x79#7, 0x33#7, 0x5B#7, 0x5F#7, 0x70#7, 0x7F#7, 0x7B#7]

/-- `ROM(digit)` (R140). It does not exist for a digit of 10 or more. -/
def rom (digit : BitVec 4) : Option Bitmap := romTable[digit.toNat]?

/-- The x offset of a slot (R23, R143). -/
def slotXoff (p : Params) : Slot → BitVec 7
  | .left => p.xoffLeft
  | .right => p.xoffRight

end Sys2Proof.Machine
end

