-- ==== Sys2Proof/Machine/Ops.lean ====
section
/-! DEFINITION. The shared operations: the inputs of a cycle, register reads and writes (20_memory.md), rejecting a command
(60_exceptions.md R175), offering one (R171), completing one, the synchronizer, and the reset edge (70_reset_and_hazards.md R190). -/

namespace Sys2Proof.Machine

/-! ### The inputs of a cycle -/

/-- A cycle in which the host does nothing and `rst` is 0: what a cycle that is not listed holds (log 1). -/
def HostCycle.idle : HostCycle where
  rst := false
  hWr := false
  hRd := false
  hAddr := 0#5
  hWdata := 0#32

/-- A host write of `v` at byte offset `off` in one cycle (R21). -/
def HostCycle.write (off : BitVec 5) (v : Word) : HostCycle where
  rst := false
  hWr := true
  hRd := false
  hAddr := off
  hWdata := v

/-- A host read at byte offset `off` in one cycle (R21). -/
def HostCycle.read (off : BitVec 5) : HostCycle where
  rst := false
  hWr := false
  hRd := true
  hAddr := off
  hWdata := 0#32

/-- The host port and `rst`, `n` cycles from this one. -/
def Env.hostAt (e : Env) (n : Nat) : HostCycle := e.host.getD n HostCycle.idle

/-- The level of `ow_in`, `n` cycles from this one: what is listed, else a free value (R104, D31). -/
def Env.owInAt (e : Env) (n : Nat) : Bool := e.owIn.getD n (Config.freeOwIn (e.cycle + n))

/-- The level of `seg_ready`, `n` cycles from this one: what is listed, else a free value (R145, D39). -/
def Env.segReadyAt (e : Env) (n : Nat) : Bool := e.segReady.getD n (Config.freeSegReady (e.cycle + n))

/-- The inputs seen from the next cycle. -/
def Env.advance (e : Env) : Env where
  cycle := e.cycle + 1
  host := e.host.tail
  owIn := e.owIn.tail
  segReady := e.segReady.tail

/-- `s` with `c` on `rst` and the host port in this cycle. -/
def State.withHost (c : HostCycle) (s : State) : State :=
  { s with env := { s.env with host := c :: s.env.host.tail } }

/-- `rst` and the host port in this cycle. -/
def State.hostPort (s : State) : HostCycle := s.env.hostAt 0

/-- `ow_in` in this cycle. -/
def State.owIn (s : State) : Bool := s.env.owInAt 0

/-- The level of `ow_in` that the edge ending this cycle registers: the one of the cycle that the edge begins. A phase that starts
at an edge occupies that cycle (R10), so every sample observes its own release phase, at the bounds of R7 too (R7, R104; DEDUCED,
log 23). -/
def State.owInAtEdge (s : State) : Bool := s.env.owInAt 1

/-- `seg_ready` in this cycle. -/
def State.segReady (s : State) : Bool := s.env.segReadyAt 0

/-! ### The register window -/

/-- The register an access selects: `h_addr[4:2]`; `h_addr[1:0]` is ignored (20_memory.md R62). -/
def regIndex (off : BitVec 5) : Nat := off.toNat / 4

/-- The byte offset within the window of a platform address, where the window stands at BASE_ADDR (R60, R72). -/
def windowOffset (p : Params) (addr : Nat) : Option (BitVec 5) :=
  if p.baseAddr ≤ addr ∧ addr < p.baseAddr + 32 then some (BitVec.ofNat 5 (addr - p.baseAddr)) else none

/-- COLOR as the host reads it (R36, R63): BG above FG. -/
def State.colorWord (s : State) : Word := s.bg ++ s.fg

/-- SLOTS, the read view of the slot file (R37, R63). -/
def State.slotsWord (s : State) : Word := (s.slotRight ++ 0#1 ++ s.slotLeft).setWidth 32

/-- IE as the host reads it (R38, R63). -/
def State.ieWord (s : State) : Word := (BitVec.ofBool s.errIe ++ BitVec.ofBool s.doneIe).setWidth 32

/-- RegRead (20_memory.md R63). CMD (R27) and the reserved offsets (R66) read 0. -/
def State.regRead (s : State) (off : BitVec 5) : Word :=
  match regIndex off with
  | 0 => 0#32
  | 1 => s.statusWord
  | 2 => s.rdata.setWidth 32
  | 3 => s.colorWord
  | 4 => s.slotsWord
  | 5 => s.ieWord
  | _ => 0#32

/-- The host's write of `v` to COLOR (R36, R64): FG is [15:0] and BG [31:16]. -/
def State.writeColor (v : Word) (s : State) : State :=
  { s with fg := v.extractLsb' 0 16, bg := v.extractLsb' 16 16 }

/-- The host's write of `v` to IE (R38, R64). -/
def State.writeIe (v : Word) (s : State) : State :=
  { s with doneIe := v.getLsbD 0, errIe := v.getLsbD 1 }

/-- RegWrite for every register but CMD (20_memory.md R64): OW_DATA, SLOTS and the reserved offsets ignore it. A write to
CMD offers a command instead (R171). -/
def State.regWrite (doneSet : Bool) (off : BitVec 5) (v : Word) (s : State) : State :=
  match regIndex off with
  | 1 => s.writeStatus doneSet v
  | 3 => s.writeColor v
  | 5 => s.writeIe v
  | _ => s

/-- The command word the host offers in this cycle: what it writes to CMD (R27, R171). -/
def State.offered (s : State) : Option Word :=
  if s.hostPort.hWr && regIndex s.hostPort.hAddr == 0 then some s.hostPort.hWdata else none

/-- What the block makes of an offered word (R171, R174): OVERRUN while BUSY, whatever the word; else what it decodes to. -/
def State.verdict (s : State) (w : Word) : Decoded :=
  if s.busy then .reject .overrun else decode w

/-- `h_rdata` in this cycle (R21, R63): the register as it stands, where the host reads one. -/
def State.hRdata (s : State) : Option Word :=
  if s.hostPort.hRd then some (s.regRead s.hostPort.hAddr) else none

/-! ### Rejecting, accepting and completing a command -/

/-- `raise CmdError(cause)` (60_exceptions.md R175): the flag of the cause and its code, and nothing else. -/
def State.cmdError (c : Cause) (s : State) : State :=
  match c with
  | .overrun => { s with overrun := true, cause := causeCode c }
  | _ => { s with cmdErr := true, cause := causeCode c }

/-- A command offered at this edge (R171): while BUSY it is an OVERRUN (R173), else it is accepted and `accept` starts it. -/
def State.offer (accept : State → State) (s : State) : Host.Outcome State Fault Refusal :=
  .next (if s.busy then s.cmdError .overrun else accept s)

/-- What every completion edge does (40_onewire.md R117, 41_renderer.md R154): BUSY ← 0, DONE ← 1, mode IDLE, the line
released and no op offered. -/
def State.complete (s : State) : State :=
  { s with done := true, seq := { s.seq with mode := .idle }, owDriveLow := false, seg := none }

/-! ### The synchronizer, the sink's handshake and reset -/

/-- `Sample()` (40_onewire.md R104): the synchronizer's last stage as it stands before the edge, 1 = high. -/
def State.sample (s : State) : Bool := s.sync.getD (s.params.syncStages - 1) true

/-- The synchronizer after an edge (10_state.md R43): `ow_in` enters stage 0, each stage passes on. -/
def State.syncNext (s : State) : List Bool := (s.owInAtEdge :: s.sync).take s.params.syncStages

/-- The op the sink accepts at the edge that ends this cycle (R23, R145): offered, with `seg_ready` = 1. This holds at a reset
edge too (R191). -/
def State.accepted (s : State) : Option SegOut := if s.segReady then s.seg else none

/-- An edge with `rst` = 1 in the cycle before it (R190): every register takes its reset value, whatever else would have
happened; the parameters stay and the inputs move on. -/
def State.resetEdge (s : State) : State := State.resetWith s.params s.env.advance

end Sys2Proof.Machine
end

