-- ==== Sys2Proof/Machine/OneWire.lean ====
section
/-! DEFINITION. The OW unit (40_onewire.md): its waveforms (R105 to R112), their execution (R103), and the four commands (R113 to R116). -/

namespace Sys2Proof.Machine

/-! ### Waveforms -/

/-- RESET_WAVE (R105). -/
def resetWave (p : Params) : List Phase :=
  [⟨true, p.tRstLow, .none⟩, ⟨false, p.tRstWait, .presence⟩]

/-- WBIT(b) (R107). -/
def writeBitWave (p : Params) (b : Bool) : List Phase :=
  if b then [⟨true, p.tW1Low, .none⟩, ⟨false, p.tW1Rel, .none⟩]
  else [⟨true, p.tW0Low, .none⟩, ⟨false, p.tW0Rel, .none⟩]

/-- WBYTE(b) (R108): bit 0 first. -/
def writeByteWave (p : Params) (b : BitVec 8) : List Phase :=
  (List.range 8).flatMap fun i => writeBitWave p (b.getLsbD i)

/-- RBIT(i) (R109). -/
def readBitWave (p : Params) (i : Fin 16) : List Phase :=
  [⟨true, p.tRLow, .none⟩, ⟨false, p.tRSample, .bit i⟩, ⟨false, p.tRIdle, .none⟩]

/-- RWORD (R110): bit 0 first. -/
def readWordWave (p : Params) : List Phase :=
  (List.finRange 16).flatMap (readBitWave p)

/-- CONV (R111). -/
def convWave (p : Params) : List Phase := [⟨false, p.tConv, .none⟩]

/-- The command byte SkipROM (R6, R112). -/
def skipRom : BitVec 8 := 0xCC#8

/-- The command byte ConvertT (R6, R112). -/
def convertT : BitVec 8 := 0x44#8

/-- The command byte ReadScratchpad (R6, R112). -/
def readScratchpad : BitVec 8 := 0xBE#8

/-- RTEMP (R112). -/
def readTempWave (p : Params) : List Phase :=
  resetWave p ++ writeByteWave p skipRom ++ writeByteWave p convertT ++ convWave p ++
    resetWave p ++ writeByteWave p skipRom ++ writeByteWave p readScratchpad ++ readWordWave p

/-- The duration of a waveform in µs, D(wave) (R103). -/
def waveUs (wave : List Phase) : Nat := (wave.map Phase.us).sum

/-- The duration of a waveform in cycles, D(wave) × TICKS_PER_US (R103). -/
def waveTicks (p : Params) (wave : List Phase) : Nat := waveUs wave * p.ticksPerUs

/-! ### Executing a waveform -/

/-- Phase `k` starts at this edge (R103): the line takes its drive and the counter its length in ticks (R42, R181). -/
def State.enterPhase (k : Nat) (s : State) : State :=
  match s.seq.wave[k]? with
  | some ph =>
    { s with seq := { s.seq with k := k, t := ph.us * s.params.ticksPerUs }, owDriveLow := ph.drive }
  | none => s

/-- `rshift[i] <- b` (R103). -/
def setBit (v : Half) (i : Fin 16) (b : Bool) : Half :=
  (v &&& ~~~(1#16 <<< i.val)) ||| ((BitVec.ofBool b).setWidth 16 <<< i.val)

/-- The capture at the end edge of a phase (R103, R106): presence is the sample inverted, a read bit is the sample. -/
def State.capture (tag : Tag) (s : State) : State :=
  match tag with
  | .none => s
  | .presence => { s with seq := { s.seq with presTmp := !s.sample } }
  | .bit i => { s with seq := { s.seq with rshift := setBit s.seq.rshift i s.sample } }

/-- The tag of the phase that is running. -/
def State.currentTag (s : State) : Tag :=
  match s.seq.wave[s.seq.k]? with
  | some ph => ph.tag
  | none => .none

/-- Whether the running phase is the last of its waveform. -/
def State.lastPhase (s : State) : Bool := decide (s.seq.wave.length ≤ s.seq.k + 1)

/-- Whether the running phase ends at this edge: one tick is left. -/
def State.phaseEnds (s : State) : Bool := decide (s.seq.t ≤ 1)

/-! ### Results at the completion edge (R117) -/

/-- OW_RESET reports presence (R113, R32, R33). -/
def State.finishOwReset (s : State) : State := { s with presence := s.seq.presTmp, presValid := true }

/-- OW_WRITE_BYTE has no result (R114). -/
def State.finishOwWriteByte (s : State) : State := s

/-- OW_READ_WORD reports the assembled word (R115, R110): bit `i` of RDATA is `rshift[i]`. -/
def State.finishOwReadWord (s : State) : State := { s with rdata := s.seq.rshift }

/-- OW_READ_TEMP reports the word and the last reset's presence (R116, D9). -/
def State.finishOwReadTemp (s : State) : State :=
  { s with rdata := s.seq.rshift, presence := s.seq.presTmp, presValid := true }

/-- The results of the running OW command, told by `lat_op`. -/
def State.finishOw (s : State) : State :=
  match s.lat.op.toNat with
  | 0x1 => s.finishOwReset
  | 0x2 => s.finishOwWriteByte
  | 0x3 => s.finishOwReadWord
  | 0x4 => s.finishOwReadTemp
  | _ => s

/-- One edge in OW_RUN (R103, R117): count the phase down; at its end capture, then enter the next phase or complete. -/
def State.owAdvance (s : State) : State :=
  if s.phaseEnds then
    let s' := s.capture s.currentTag
    if s.lastPhase then s'.finishOw.complete else s'.enterPhase (s.seq.k + 1)
  else { s with seq := { s.seq with t := s.seq.t - 1 } }

/-! ### The commands -/

/-- Accept an OW command (R113 to R116): latch, mode OW_RUN, and phase 0 of its waveform starts at this edge (R103). -/
def State.acceptOw (op : BitVec 4) (arg : BitVec 8) (wave : List Phase) (s : State) : State :=
  let s' := s.latch op arg .left
  State.enterPhase 0 { s' with seq := { s'.seq with mode := .owRun, wave := wave } }

/-- OW_RESET (R113). -/
def execOwReset (s : State) : Host.Outcome State Fault Refusal :=
  s.offer (State.acceptOw 0x1#4 0#8 (resetWave s.params))

/-- OW_WRITE_BYTE (R114). -/
def execOwWriteByte (byte : BitVec 8) (s : State) : Host.Outcome State Fault Refusal :=
  s.offer (State.acceptOw 0x2#4 byte (writeByteWave s.params byte))

/-- OW_READ_WORD (R115). -/
def execOwReadWord (s : State) : Host.Outcome State Fault Refusal :=
  s.offer (State.acceptOw 0x3#4 0#8 (readWordWave s.params))

/-- OW_READ_TEMP (R116). -/
def execOwReadTemp (s : State) : Host.Outcome State Fault Refusal :=
  s.offer (State.acceptOw 0x4#4 0#8 (readTempWave s.params))

end Sys2Proof.Machine
end

