-- ==== Sys2Proof/Machine/Renderer.lean ====
section
/-! DEFINITION. The DSR unit (41_renderer.md): op lists (R144), their emission (R145), and the three commands (R146 to R148). -/

namespace Sys2Proof.Machine

/-! ### Op lists -/

/-- Bitmap bits in canonical order A to G: bit 6 down to bit 0 (R142, R144, D17). -/
def canonicalBits : List Nat := [6, 5, 4, 3, 2, 1, 0]

/-- The canonical segment index of bitmap bit `j`: 6 − j (R142). -/
def segOfBit (j : Nat) : BitVec 3 := BitVec.ofNat 3 (6 - j)

/-- popcount (R11). -/
def popcount (v : Bitmap) : Nat := (canonicalBits.filter v.getLsbD).length

/-- OpsFirst(slot, new, fg) (R144). -/
def opsFirst (slot : Slot) (new : Bitmap) (fg : Half) : List SegOp :=
  (canonicalBits.filter new.getLsbD).map fun j => ⟨slot, segOfBit j, fg, false⟩

/-- OpsRender(slot, old, new, fg, bg) (R144). -/
def opsRender (slot : Slot) (old new : Bitmap) (fg bg : Half) : List SegOp :=
  (canonicalBits.filter fun j => old.getLsbD j != new.getLsbD j).map fun j =>
    ⟨slot, segOfBit j, if new.getLsbD j then fg else bg, !new.getLsbD j⟩

/-- OpsInvalidate (R144). -/
def opsInvalidate : List SegOp := []

/-! ### Emission -/

/-- An op as the port presents it (R143). -/
def SegOp.present (p : Params) (o : SegOp) : SegOut := ⟨o.slot, o.seg, o.color, o.erase, slotXoff p o.slot⟩

/-- The rectangle the display adapter fills for an op (R143, R149): the segment's SEG_RECT, moved right by the op's x offset.
There is none for an index of 7, which no op carries. -/
def SegOut.fillRect (p : Params) (o : SegOut) : Option Rect :=
  p.segRect[o.index.toNat]?.map fun r => { r with x0 := o.xoff.toNat + r.x0, x1 := o.xoff.toNat + r.x1 }

/-- Present op `j` of the list from this edge; `seg_valid` is 0 where the list has none (R145). -/
def State.presentOp (j : Nat) (s : State) : State :=
  { s with seq := { s.seq with j := j }, seg := s.seq.ops[j]?.map (SegOp.present s.params) }

/-- Whether no op is left to accept after this edge: none is offered, or the last one is accepted (R145, R154). -/
def State.opsEnd (s : State) : Bool :=
  match s.seg with
  | none => true
  | some _ => s.segReady && decide (s.seq.ops.length ≤ s.seq.j + 1)

/-! ### Results at the completion edge (R154) -/

/-- DSR_RENDER_FIRST stores the new bitmap (R146). -/
def State.finishDsrRenderFirst (s : State) : State :=
  match rom (argDigit s.lat.arg) with
  | some new => s.setSlot s.lat.slot new
  | none => s

/-- DSR_RENDER stores the new bitmap (R147). -/
def State.finishDsrRender (s : State) : State :=
  match rom (argDigit s.lat.arg) with
  | some new => s.setSlot s.lat.slot new
  | none => s

/-- DSR_INVALIDATE resets both slots to the sentinel (R148). -/
def State.finishDsrInvalidate (s : State) : State := (s.setSlot .left 0#7).setSlot .right 0#7

/-- The results of the running DSR command, told by `lat_op`. -/
def State.finishDsr (s : State) : State :=
  match s.lat.op.toNat with
  | 0x8 => s.finishDsrRenderFirst
  | 0x9 => s.finishDsrRender
  | 0xA => s.finishDsrInvalidate
  | _ => s

/-- One edge in DSR_RUN (R145, R154): the offered op is held until the sink accepts it; then the next is presented, or the
command completes. -/
def State.dsrAdvance (s : State) : State :=
  if s.opsEnd then s.finishDsr.complete
  else if s.segReady then s.presentOp (s.seq.j + 1)
  else s

/-! ### The commands -/

/-- Accept a DSR command (R146 to R148): latch, mode DSR_RUN, and op 0 of its list, if any, is presented from this edge (R145). -/
def State.acceptDsr (op : BitVec 4) (arg : BitVec 8) (slot : Slot) (ops : List SegOp) (s : State) : State :=
  let s' := s.latch op arg slot
  State.presentOp 0 { s' with seq := { s'.seq with mode := .dsrRun, ops := ops } }

/-- Accept DSR_RENDER_FIRST (R146), whatever the slot holds (D20). A digit with no ROM entry is rejected (R87). -/
def State.acceptRenderFirst (slot : Slot) (digit : BitVec 4) (s : State) : State :=
  match rom digit with
  | some new => s.acceptDsr 0x8#4 (digitArg digit) slot (opsFirst slot new s.fg)
  | none => s.cmdError .digitRange

/-- Accept DSR_RENDER (R147). A digit with no ROM entry is rejected (R87). -/
def State.acceptRender (slot : Slot) (digit : BitVec 4) (s : State) : State :=
  match rom digit with
  | some new => s.acceptDsr 0x9#4 (digitArg digit) slot (opsRender slot (s.slot slot) new s.fg s.bg)
  | none => s.cmdError .digitRange

/-- DSR_RENDER_FIRST (R146). -/
def execDsrRenderFirst (slot : Slot) (digit : BitVec 4) (s : State) : Host.Outcome State Fault Refusal :=
  s.offer (State.acceptRenderFirst slot digit)

/-- DSR_RENDER (R147). -/
def execDsrRender (slot : Slot) (digit : BitVec 4) (s : State) : Host.Outcome State Fault Refusal :=
  s.offer (State.acceptRender slot digit)

/-- DSR_INVALIDATE (R148). -/
def execDsrInvalidate (s : State) : Host.Outcome State Fault Refusal :=
  s.offer (State.acceptDsr 0xA#4 0#8 .left opsInvalidate)

end Sys2Proof.Machine
end

