-- ==== Sys2Proof/Machine/Dispatch.lean ====
section
/-! DEFINITION. The meaning of each command: what offering it at an edge does to the state at that edge (60_exceptions.md R171). -/

namespace Sys2Proof.Machine

def exec (i : Instr) (s : State) : Host.Outcome State Fault Refusal :=
  match i with
  | .owReset => Sys2Proof.Machine.execOwReset s
  | .owWriteByte byte => Sys2Proof.Machine.execOwWriteByte byte s
  | .owReadWord => Sys2Proof.Machine.execOwReadWord s
  | .owReadTemp => Sys2Proof.Machine.execOwReadTemp s
  | .dsrRenderFirst slot digit => Sys2Proof.Machine.execDsrRenderFirst slot digit s
  | .dsrRender slot digit => Sys2Proof.Machine.execDsrRender slot digit s
  | .dsrInvalidate => Sys2Proof.Machine.execDsrInvalidate s

end Sys2Proof.Machine
end

