-- ==== Sys2Proof/Machine/Sequencer.lean ====
section
/-! DEFINITION. One edge of the block with `rst` = 0, but for the command it may accept: the sequencer, `irq`, the synchronizer
and a register write other than CMD. -/

namespace Sys2Proof.Machine

/-- The sequencer at one edge (10_state.md R42). In IDLE it stays as it is (R208). -/
def State.advance (s : State) : State :=
  match s.seq.mode with
  | .idle => s
  | .owRun => s.owAdvance
  | .dsrRun => s.dsrAdvance

/-- Whether the running command completes at this edge (`doneSetAt`, 20_memory.md R64). -/
def State.completes (s : State) : Bool :=
  match s.seq.mode with
  | .idle => false
  | .owRun => s.phaseEnds && s.lastPhase
  | .dsrRun => s.opsEnd

/-- The block after one edge, but for a host write: the sequencer advances, `irq` follows the flags as they stood (R177), the
synchronizer shifts (R43), and the inputs move on. -/
def State.edge (s : State) : State :=
  { s.advance with irq := s.irqNext, sync := s.syncNext, env := s.env.advance }

/-- The block after one edge at which no command is offered: the host may write another register (R64). -/
def State.plainEdge (s : State) : State :=
  if s.hostPort.hWr then s.edge.regWrite s.completes s.hostPort.hAddr s.hostPort.hWdata else s.edge

end Sys2Proof.Machine
end

