-- ==== Sys2Proof/Machine/Step.lean ====
section
/-! DEFINITION. One step of the machine: one rising edge of `clk` (00_scope.md R10, 10_state.md R20). -/

namespace Sys2Proof.Machine

/-- One edge. A reset edge overrides all else (R190). A word offered on CMD is rejected or its command is executed (R171);
either way the rest of the block takes the edge as it would without the write (R175). -/
def step (s : State) : Host.Outcome State Fault Refusal :=
  if s.hostPort.rst then .next s.resetEdge
  else
    match s.offered with
    | none => .next s.plainEdge
    | some w =>
      match s.verdict w with
      | .reject c => .next (s.edge.cmdError c)
      | .command i => exec i s.edge

/-- The block at rest: mode IDLE, the line released, no op offered (R101, R145). An idle block is already so. -/
def State.atRest (s : State) : State :=
  { s with seq := { s.seq with mode := .idle }, owDriveLow := false, seg := none }

/-- `s` with the command word of an instruction on the host port in this cycle, as a write to CMD (R27), and the block at rest,
so that the next step runs it (R171). Bits of `w` from `nbits` on are taken as 0. -/
def State.withFetchWord (s : State) (nbits w : Nat) : State :=
  s.atRest.withHost (HostCycle.write 0x00#5 (BitVec.ofNat 32 (w % 2 ^ nbits)))

end Sys2Proof.Machine
end

