-- ==== Sys2Proof/Machine/HostOps.lean ====
section
/-! DEFINITION. The host operations the spec's programs are written in (30_encoding.md R90, R91) as accesses at the host port,
and the block run under such a program with the host timing of 95_test_vectors.md L3: one access a cycle. -/

namespace Sys2Proof.Machine

/-- The registers the program notation names (R90). -/
inductive Reg where
  | cmd
  | status
  | owData
  | color
  | slots
  | ie
  deriving DecidableEq, Repr

/-- The byte offset of a register (10_state.md R26). -/
def Reg.offset : Reg → BitVec 5
  | .cmd => 0x00#5
  | .status => 0x04#5
  | .owData => 0x08#5
  | .color => 0x0C#5
  | .slots => 0x10#5
  | .ie => 0x14#5

/-- A host operation of a program (R90). -/
inductive HostOp where
  /-- `ow.reset` to `dsr.inval`: a command by its mnemonic. -/
  | command (i : Instr)
  /-- `cmd <hex>`: any raw word. -/
  | cmd (w : Word)
  /-- `wr <REG>, <value>`. -/
  | wr (reg : Reg) (v : Word)
  /-- `rd <REG> -> <name>`. -/
  | rd (reg : Reg)
  /-- `wait_done`. -/
  | waitDone
  /-- `wait_us <n>`. -/
  | waitUs (n : Nat)
  deriving DecidableEq, Repr

/-- `ow.skiprom` (R91). -/
def hostSkipRom : HostOp := .command (.owWriteByte skipRom)

/-- `ow.convert` (R91). -/
def hostConvert : HostOp := .command (.owWriteByte convertT)

/-- `ow.rdscratch` (R91). -/
def hostReadScratch : HostOp := .command (.owWriteByte readScratchpad)

/-- `ack` (R91): clear DONE, CMD_ERR and OVERRUN. -/
def hostAck : HostOp := .wr .status 0x0000000E#32

/-- `run <c>` (R91). -/
def hostRun (c : HostOp) : List HostOp := [c, .waitDone, .wr .status 0x00000002#32]

/-- What a host operation does to the port in one cycle (R90). -/
def HostOp.cycle : HostOp → HostCycle
  | .command i => HostCycle.write 0x00#5 (encode i)
  | .cmd w => HostCycle.write 0x00#5 w
  | .wr reg v => HostCycle.write reg.offset v
  | .rd reg => HostCycle.read reg.offset
  | .waitDone => HostCycle.read 0x04#5
  | .waitUs _ => HostCycle.idle

/-- The program after one cycle of its first operation, when the port read `r` in it: `wait_done` repeats until the read shows
DONE (R90); `wait_us n` idles `n` µs of cycles, the least it may (log 19); any other operation takes one cycle. -/
def hostNext (p : Params) (r : Option Word) : List HostOp → List HostOp
  | [] => []
  | .waitDone :: rest => if (r.getD 0#32).getLsbD 1 then rest else .waitDone :: rest
  | .waitUs n :: rest => List.replicate (n * p.ticksPerUs - 1) (.waitUs 0) ++ rest
  | _ :: rest => rest

/-- The host runs a program for at most `fuel` cycles: the state it ends in, and what its `rd` operations read, oldest first. -/
def runProgram : Nat → List HostOp → State → Host.Outcome (State × List Word) Fault Refusal
  | 0, _, s => .next (s, [])
  | _, [], s => .next (s, [])
  | fuel + 1, op :: rest, s =>
    let s' := s.withHost op.cycle
    match step s' with
    | .next t =>
      match runProgram fuel (hostNext s.params s'.hRdata (op :: rest)) t with
      | .next (u, reads) =>
        .next (u, (match op with | .rd _ => s'.hRdata.toList | _ => []) ++ reads)
      | .fault r => .fault r
      | .refused r => .refused r
    | .fault r => .fault r
    | .refused r => .refused r

end Sys2Proof.Machine
end

