-- ==== Sys2Proof/Safety.lean ====
section
/-! DEFINITION. The terms claims are made in: runs of edges, what is observed of them (00_scope.md R13), the inputs of a run, the
machine's invariant, and the display the sink keeps (41_renderer.md R153). -/

namespace Sys2Proof.Machine

/-! ### Runs -/

/-- The state after `n` edges. -/
def run : Nat → State → Host.Outcome State Fault Refusal
  | 0, s => .next s
  | n + 1, s =>
    match step s with
    | .next t => run n t
    | .fault r => .fault r
    | .refused r => .refused r

/-- The segment ops the sink accepts at the first `n` edges, in order (R13). -/
def acceptedOps : Nat → State → List SegOut
  | 0, _ => []
  | n + 1, s =>
    s.accepted.toList ++
      match step s with
      | .next t => acceptedOps n t
      | .fault _ => []
      | .refused _ => []

/-- What is observed in one cycle (R13): the line's drive, `irq`, the value a host read returns, the op the sink accepts at the
cycle's end, and BUSY through the STATUS reads among these. -/
structure Observation where
  owDriveLow : Bool
  irq : Bool
  hRdata : Option Word
  accepted : Option SegOut
  deriving DecidableEq, Repr

/-- The observation of this cycle. -/
def State.observe (s : State) : Observation where
  owDriveLow := s.owDriveLow
  irq := s.irq
  hRdata := s.hRdata
  accepted := s.accepted

/-- The observations of this cycle and the `n` after it. -/
def observations : Nat → State → List Observation
  | 0, s => [s.observe]
  | n + 1, s =>
    s.observe ::
      match step s with
      | .next t => observations n t
      | .fault _ => []
      | .refused _ => []

/-! ### The inputs of a run -/

/-- `rst` is 0 in this cycle and the `n - 1` after it. -/
abbrev State.NoReset (n : Nat) (s : State) : Prop := ∀ c ∈ s.env.host.take n, c.rst = false

/-- In how many of this cycle and the `n - 1` after it `seg_ready` is 1 (R145). -/
def Env.readyCount (e : Env) (n : Nat) : Nat := ((List.range n).filter e.segReadyAt).length

/-! ### What the running command is, told by its latched operands -/

/-- The waveform of the latched OW command (R105 to R112). -/
def State.latWave (s : State) : Option (List Phase) :=
  match s.lat.op.toNat with
  | 0x1 => some (resetWave s.params)
  | 0x2 => some (writeByteWave s.params s.lat.arg)
  | 0x3 => some (readWordWave s.params)
  | 0x4 => some (readTempWave s.params)
  | _ => none

/-- The op list of the latched DSR command (R144). -/
def State.latOps (s : State) : Option (List SegOp) :=
  match s.lat.op.toNat with
  | 0x8 => (rom (argDigit s.lat.arg)).map fun new => opsFirst s.lat.slot new s.lat.fg
  | 0x9 => (rom (argDigit s.lat.arg)).map fun new => opsRender s.lat.slot (s.slot s.lat.slot) new s.lat.fg s.lat.bg
  | 0xA => some opsInvalidate
  | _ => none

/-- The waveform an OW command denotes (R113 to R116); a DSR command denotes none. -/
def owWave (p : Params) : Instr → Option (List Phase)
  | .owReset => some (resetWave p)
  | .owWriteByte byte => some (writeByteWave p byte)
  | .owReadWord => some (readWordWave p)
  | .owReadTemp => some (readTempWave p)
  | .dsrRenderFirst _ _ => none
  | .dsrRender _ _ => none
  | .dsrInvalidate => none

/-- The op list a DSR command accepted in state `s` emits (R144, R146 to R148); an OW command, and a render of a digit that is
not in the ROM, have none. -/
def dsrOps (s : State) : Instr → Option (List SegOp)
  | .owReset => none
  | .owWriteByte _ => none
  | .owReadWord => none
  | .owReadTemp => none
  | .dsrRenderFirst slot digit => (rom digit).map fun new => opsFirst slot new s.fg
  | .dsrRender slot digit => (rom digit).map fun new => opsRender slot (s.slot slot) new s.fg s.bg
  | .dsrInvalidate => some opsInvalidate

/-- The line's drive in each cycle of a waveform (R103): `true` is low. -/
def driveTrace (p : Params) (wave : List Phase) : List Bool :=
  wave.flatMap fun ph => List.replicate (ph.us * p.ticksPerUs) ph.drive

/-! ### The invariant -/

/-- A slot holds the sentinel or a ROM entry (10_state.md R39). -/
abbrev slotLegal (v : Bitmap) : Prop := v = 0#7 ∨ v ∈ romTable

/-- The sequencer in OW_RUN (R42, R103): it runs the waveform of its latched command, inside a phase of it, with that phase's
drive on the line and at most that phase's ticks left. -/
abbrev State.OwRunOk (s : State) : Prop :=
  s.seg = none ∧ s.latWave = some s.seq.wave ∧ s.seq.k < s.seq.wave.length ∧ 1 ≤ s.seq.t ∧
  (∀ ph ∈ s.seq.wave[s.seq.k]?, s.seq.t ≤ ph.us * s.params.ticksPerUs ∧ s.owDriveLow = ph.drive)

/-- The sequencer in DSR_RUN (R42, R144, R145): it runs the op list of its latched command and offers op `j` of it. -/
abbrev State.DsrRunOk (s : State) : Prop :=
  s.owDriveLow = false ∧ s.latOps = some s.seq.ops ∧ s.seg = s.seq.ops[s.seq.j]?.map (SegOp.present s.params) ∧
  (s.seq.j < s.seq.ops.length ∨ s.seq.ops = [])

/-- The machine's invariant: legal parameters (R7), a synchronizer of SYNC_STAGES stages (R43), a defined cause, which is not
NONE while an error flag is set (R172), legal slots (R39), no presence before a reset has been done (R33), and the sequencer's
position and outputs those of its mode (R42, R101, R145). -/
abbrev State.Inv (s : State) : Prop :=
  s.params.Ok ∧
  s.sync.length = s.params.syncStages ∧
  s.cause.toNat ≤ 4 ∧
  (s.cmdErr = true ∨ s.overrun = true → s.cause ≠ 0#4) ∧
  slotLegal s.slotLeft ∧
  slotLegal s.slotRight ∧
  (s.presence = true → s.presValid = true) ∧
  (s.seq.mode = .idle → s.owDriveLow = false ∧ s.seg = none) ∧
  (s.seq.mode = .owRun → s.OwRunOk) ∧
  (s.seq.mode = .dsrRun → s.DsrRunOk)

/-! ### Hidden state -/

/-- `s` with other values in the state that the spec leaves unspecified while the mode is IDLE (R41, R42, U10). -/
def State.withHidden (lat : Latched) (seq : Sequencer) (s : State) : State :=
  { s with lat := lat, seq := { seq with mode := s.seq.mode } }

/-! ### The display -/

/-- What the display shows: the colour of each segment of each slot (R153). -/
abbrev Display := Slot → BitVec 3 → Half

/-- The display after it has filled one segment (R153). -/
def Display.fill (d : Display) (o : SegOut) : Display :=
  fun slot seg => if slot = o.slot ∧ seg = o.index then o.color else d slot seg

/-- The display after a list of accepted ops, in order. -/
def Display.apply (d : Display) (ops : List SegOut) : Display := ops.foldl Display.fill d

/-- The display invariant of R153 for a slot that holds `v`: each segment shows the foreground where its bit is 1, else the background. -/
def Display.Shows (d : Display) (slot : Slot) (v : Bitmap) (fg bg : Half) : Prop :=
  ∀ j ∈ canonicalBits, d slot (segOfBit j) = if v.getLsbD j then fg else bg

end Sys2Proof.Machine
end

