-- ==== Sys2Proof/Certificates/Slice0/Obligations.lean ====
section
/-! DEFINITION. The statements for the provers. Where a statement is about a free value (a level of `ow_in` or `seg_ready`) it holds for every value. -/

open Sys2Proof Sys2Proof.Machine

/-! ### Encoding (30_encoding.md) -/

/-- Decoding the word of a well-formed command gives the command back, with every operand (R82 to R84, R89). -/
def Obligations.DecodeEncodeRoundTrip : Prop :=
  ∀ i : Instr, i.WellFormed → decode (encode i) = .command i

/-- A word that decodes is the one word of a well-formed command (R83, R88). -/
def Obligations.DecodedWordIsItsEncoding : Prop :=
  ∀ (w : Word) (i : Instr), decode w = .command i → i.WellFormed ∧ encode i = w

/-- Row by row of the opcode map: which words spell a command, and with which operands; `op[3]` = 0 selects the OW unit (R83, R84). -/
def Obligations.WordSpellsCommandByMatchAndMask : Prop :=
  ∀ w : Word,
    (decode w = .command .owReset ↔ w &&& 0xFFFFFFFF#32 = 0x00000001#32) ∧
    (∀ byte, decode w = .command (.owWriteByte byte) ↔ w &&& 0xFFFF00FF#32 = 0x00000002#32 ∧ byte = w.extractLsb' 8 8) ∧
    (decode w = .command .owReadWord ↔ w &&& 0xFFFFFFFF#32 = 0x00000003#32) ∧
    (decode w = .command .owReadTemp ↔ w &&& 0xFFFFFFFF#32 = 0x00000004#32) ∧
    (∀ slot digit, decode w = .command (.dsrRenderFirst slot digit) ↔
      w &&& 0xFFFEF0FF#32 = 0x00000008#32 ∧ digit = w.extractLsb' 8 4 ∧ digit.toNat ≤ 9 ∧
        slot = if w.getLsbD 16 then .right else .left) ∧
    (∀ slot digit, decode w = .command (.dsrRender slot digit) ↔
      w &&& 0xFFFEF0FF#32 = 0x00000009#32 ∧ digit = w.extractLsb' 8 4 ∧ digit.toNat ≤ 9 ∧
        slot = if w.getLsbD 16 then .right else .left) ∧
    (decode w = .command .dsrInvalidate ↔ w &&& 0xFFFFFFFF#32 = 0x0000000A#32) ∧
    (∀ p i, decode w = .command i → (owWave p i).isSome = !w.getLsbD 3)

/-- Every word that spells no command is rejected for one cause, by the priority of R174 (R85 to R87). -/
def Obligations.RejectedWordHasItsCause : Prop :=
  ∀ w : Word,
    (w.extractLsb' 0 4 ∈ [0x0#4, 0x5#4, 0x6#4, 0x7#4, 0xB#4, 0xC#4, 0xD#4, 0xE#4, 0xF#4] →
      decode w = .reject .reservedOpcode) ∧
    (∀ row ∈ [(0x1#4, 0xFFFFFFFF#32), (0x2#4, 0xFFFF00FF#32), (0x3#4, 0xFFFFFFFF#32), (0x4#4, 0xFFFFFFFF#32),
        (0x8#4, 0xFFFEF0FF#32), (0x9#4, 0xFFFEF0FF#32), (0xA#4, 0xFFFFFFFF#32)],
      w.extractLsb' 0 4 = row.1 → w &&& row.2 ≠ row.1.setWidth 32 → decode w = .reject .reservedField) ∧
    (w &&& 0xFFFEF0FF#32 = 0x00000008#32 ∨ w &&& 0xFFFEF0FF#32 = 0x00000009#32 → 10 ≤ (w.extractLsb' 8 4).toNat →
      decode w = .reject .digitRange)

/-- Words written out from the spec's encodings decode to what they stand for (95_test_vectors.md L2, "Encoding and decode";
0x00000509 is E6's). -/
def Obligations.SpecWordsDecode : Prop :=
  decode 0x00000001#32 = .command .owReset ∧
  decode 0x0000CC02#32 = .command (.owWriteByte 0xCC#8) ∧
  decode 0x00000003#32 = .command .owReadWord ∧
  decode 0x00000004#32 = .command .owReadTemp ∧
  decode 0x00010908#32 = .command (.dsrRenderFirst .right 9#4) ∧
  decode 0x00000509#32 = .command (.dsrRender .left 5#4) ∧
  decode 0x0000000A#32 = .command .dsrInvalidate ∧
  decode 0x00000000#32 = .reject .reservedOpcode ∧
  decode 0x00020C08#32 = .reject .reservedField ∧
  decode 0x00000F09#32 = .reject .digitRange

/-! ### The register window (20_memory.md) -/

/-- A host read returns, in its own cycle, the register as it stands, bit by bit, and changes nothing: the step is the same with
the read strobe at either level (R63). -/
def Obligations.RegisterReadReturnsItsFields : Prop :=
  (∀ s : State, s.hostPort.hRd = true → s.hRdata = some (s.regRead s.hostPort.hAddr)) ∧
  (∀ (s : State) (rd : Bool), step (s.withHost { s.hostPort with hRd := rd }) = step s) ∧
  ∀ (s : State) (off : BitVec 5),
    (off.toNat / 4 = 0 → s.regRead off = 0#32) ∧
    (off.toNat / 4 = 1 →
      (s.regRead off).getLsbD 0 = s.busy ∧ (s.regRead off).getLsbD 1 = s.done ∧ (s.regRead off).getLsbD 2 = s.cmdErr ∧
      (s.regRead off).getLsbD 3 = s.overrun ∧ (s.regRead off).getLsbD 4 = s.presence ∧
      (s.regRead off).getLsbD 5 = s.presValid ∧ (s.regRead off).extractLsb' 6 2 = 0#2 ∧
      (s.regRead off).extractLsb' 8 4 = s.cause ∧ (s.regRead off).extractLsb' 12 20 = 0#20) ∧
    (off.toNat / 4 = 2 → (s.regRead off).extractLsb' 0 16 = s.rdata ∧ (s.regRead off).extractLsb' 16 16 = 0#16) ∧
    (off.toNat / 4 = 3 → (s.regRead off).extractLsb' 0 16 = s.fg ∧ (s.regRead off).extractLsb' 16 16 = s.bg) ∧
    (off.toNat / 4 = 4 →
      (s.regRead off).extractLsb' 0 7 = s.slotLeft ∧ (s.regRead off).getLsbD 7 = false ∧
      (s.regRead off).extractLsb' 8 7 = s.slotRight ∧ (s.regRead off).extractLsb' 15 17 = 0#17) ∧
    (off.toNat / 4 = 5 →
      (s.regRead off).getLsbD 0 = s.doneIe ∧ (s.regRead off).getLsbD 1 = s.errIe ∧ (s.regRead off).extractLsb' 2 30 = 0#30) ∧
    (off.toNat / 4 = 6 ∨ off.toNat / 4 = 7 → s.regRead off = 0#32)

/-- Accesses whose addresses agree on `h_addr[4:2]` are the same access, for reads and for writes (R62). -/
def Obligations.LowAddressBitsAreIgnored : Prop :=
  ∀ (s : State) (a b : BitVec 5), a.extractLsb' 2 3 = b.extractLsb' 2 3 →
    s.regRead a = s.regRead b ∧
    step (s.withHost { s.hostPort with hAddr := a }) = step (s.withHost { s.hostPort with hAddr := b })

/-- A write to COLOR or IE stores its fields, and is the only difference from the edge without it (R36, R38, R64). -/
def Obligations.ColorAndIeWritesStore : Prop :=
  ∀ (s : State), s.hostPort.rst = false → s.hostPort.hWr = true →
    ∃ u, step (s.withHost { s.hostPort with hWr := false }) = .next u ∧
      (s.hostPort.hAddr.toNat / 4 = 3 → ∃ t, step s = .next t ∧ t.regRead 0x0C#5 = s.hostPort.hWdata ∧
        t = { u with fg := s.hostPort.hWdata.extractLsb' 0 16, bg := s.hostPort.hWdata.extractLsb' 16 16 }) ∧
      (s.hostPort.hAddr.toNat / 4 = 5 → ∃ t, step s = .next t ∧ t.regRead 0x14#5 = s.hostPort.hWdata &&& 0x3#32 ∧
        t = { u with doneIe := s.hostPort.hWdata.getLsbD 0, errIe := s.hostPort.hWdata.getLsbD 1 })

/-- A write to STATUS clears exactly the flags written with 1, but for DONE where a command completes at the same edge; the
rest of the block takes the edge as without the write (R64, R65). -/
def Obligations.StatusWriteOneToClear : Prop :=
  ∀ (s : State), s.hostPort.rst = false → s.hostPort.hWr = true → s.hostPort.hAddr.toNat / 4 = 1 →
    ∃ u, step (s.withHost { s.hostPort with hWr := false }) = .next u ∧
      step s = .next { u with
        done := s.completes || (s.done && !s.hostPort.hWdata.getLsbD 1)
        cmdErr := s.cmdErr && !s.hostPort.hWdata.getLsbD 2
        overrun := s.overrun && !s.hostPort.hWdata.getLsbD 3 }

/-- Writes to OW_DATA, SLOTS and the reserved offsets are ignored (R35, R37, R64, R66). -/
def Obligations.ReadOnlyAndReservedWritesIgnored : Prop :=
  ∀ (s : State), s.hostPort.hWr = true → s.hostPort.hAddr.toNat / 4 ∈ [2, 4, 6, 7] →
    step s = step (s.withHost { s.hostPort with hWr := false })

/-! ### Offering a command (60_exceptions.md) -/

/-- A step whose CMD write decodes while the block is idle is exec of that command, at the state the edge gives: `irq`, the
synchronizer and the inputs have moved on, and nothing else (R171, R177, R43). -/
def Obligations.StepRunsTheDecodedCommand : Prop :=
  ∀ (s : State) (i : Instr), s.hostPort.rst = false → s.hostPort.hWr = true → s.hostPort.hAddr.toNat / 4 = 0 →
    s.busy = false → decode s.hostPort.hWdata = .command i →
    step s = exec i { s with irq := s.irqNext, sync := s.syncNext, env := s.env.advance }

/-- A rejected word sets the flag of its cause, OVERRUN or CMD_ERR, and writes the cause code; all else is as it would be
without the write (R172, R175). -/
def Obligations.RejectionRecordsOnlyItsCause : Prop :=
  ∀ (s : State) (c : Cause), s.hostPort.rst = false → s.hostPort.hWr = true → s.hostPort.hAddr.toNat / 4 = 0 →
    s.busy = true ∧ c = .overrun ∨ s.busy = false ∧ decode s.hostPort.hWdata = .reject c →
    ∃ u, step (s.withHost { s.hostPort with hWr := false }) = .next u ∧
      step s = .next { u with
        overrun := u.overrun || decide (c = .overrun)
        cmdErr := u.cmdErr || decide (c ≠ .overrun)
        cause := if c = .reservedOpcode then 1#4 else if c = .reservedField then 2#4 else if c = .digitRange then 3#4 else 4#4 }

/-- Any word written to CMD while busy is an overrun: OVERRUN and cause 4; the running command goes on as without the write,
also where it completes at this very edge (R173, R174, R175). -/
def Obligations.WriteWhileBusyIsOverrun : Prop :=
  ∀ (s : State), s.hostPort.rst = false → s.hostPort.hWr = true → s.hostPort.hAddr.toNat / 4 = 0 → s.busy = true →
    ∃ u, step (s.withHost { s.hostPort with hWr := false }) = .next u ∧
      step s = .next { u with overrun := true, cause := 4#4 }

/-- exec of any command at a busy state is the overrun of R173, and exec of a render with a digit above 9 at an idle state the
rejection of R87; nothing else changes (R175). -/
def Obligations.ExecTurnsAwayByName : Prop :=
  (∀ (i : Instr) (s : State), s.busy = true → exec i s = .next { s with overrun := true, cause := 4#4 }) ∧
  (∀ (slot : Slot) (digit : BitVec 4) (s : State), s.busy = false → 10 ≤ digit.toNat →
    exec (.dsrRenderFirst slot digit) s = .next { s with cmdErr := true, cause := 3#4 } ∧
    exec (.dsrRender slot digit) s = .next { s with cmdErr := true, cause := 3#4 })

/-- No step ends in a fault or a refusal, from any state and under any inputs (R88, R170). -/
def Obligations.EveryStepHasANextState : Prop :=
  ∀ s : State, ∃ t, step s = .next t

/-! ### Accepting a command (40_onewire.md R113 to R116, 41_renderer.md R146 to R148) -/

/-- An OW command offered while idle is accepted: operands latched, mode OW_RUN, its waveform from phase 0 with the line low,
and nothing else changed (R41, R113 to R116, R171). -/
def Obligations.OwCommandsAreAccepted : Prop :=
  ∀ s : State, s.busy = false →
    exec .owReset s = .next { s with
      lat := ⟨0x1#4, 0#8, .left, s.fg, s.bg⟩
      seq := { s.seq with
        mode := .owRun
        wave := [⟨true, s.params.tRstLow, .none⟩, ⟨false, s.params.tRstWait, .presence⟩]
        k := 0
        t := s.params.tRstLow * s.params.ticksPerUs }
      owDriveLow := true } ∧
    (∀ byte : BitVec 8, exec (.owWriteByte byte) s = .next { s with
      lat := ⟨0x2#4, byte, .left, s.fg, s.bg⟩
      seq := { s.seq with
        mode := .owRun
        wave := writeByteWave s.params byte
        k := 0
        t := (if byte.getLsbD 0 then s.params.tW1Low else s.params.tW0Low) * s.params.ticksPerUs }
      owDriveLow := true }) ∧
    exec .owReadWord s = .next { s with
      lat := ⟨0x3#4, 0#8, .left, s.fg, s.bg⟩
      seq := { s.seq with
        mode := .owRun
        wave := readWordWave s.params
        k := 0
        t := s.params.tRLow * s.params.ticksPerUs }
      owDriveLow := true } ∧
    exec .owReadTemp s = .next { s with
      lat := ⟨0x4#4, 0#8, .left, s.fg, s.bg⟩
      seq := { s.seq with
        mode := .owRun
        wave := readTempWave s.params
        k := 0
        t := s.params.tRstLow * s.params.ticksPerUs }
      owDriveLow := true }

/-- A DSR command offered while idle is accepted: operands latched, mode DSR_RUN, its op list with the first op, if any, on
the port with its slot's x offset, and nothing else changed (R23, R41, R143, R145 to R148, R171). -/
def Obligations.DsrCommandsAreAccepted : Prop :=
  ∀ s : State, s.busy = false →
    (∀ (slot : Slot) (digit : BitVec 4) (new : Bitmap), romTable[digit.toNat]? = some new →
      exec (.dsrRenderFirst slot digit) s = .next { s with
        lat := ⟨0x8#4, digit.setWidth 8, slot, s.fg, s.bg⟩
        seq := { s.seq with mode := .dsrRun, ops := opsFirst slot new s.fg, j := 0 }
        seg := (opsFirst slot new s.fg).head?.map
          fun o => ⟨o.slot, o.seg, o.color, o.erase, if o.slot = .left then s.params.xoffLeft else s.params.xoffRight⟩ } ∧
      exec (.dsrRender slot digit) s = .next { s with
        lat := ⟨0x9#4, digit.setWidth 8, slot, s.fg, s.bg⟩
        seq := { s.seq with mode := .dsrRun, ops := opsRender slot (s.slot slot) new s.fg s.bg, j := 0 }
        seg := (opsRender slot (s.slot slot) new s.fg s.bg).head?.map
          fun o => ⟨o.slot, o.seg, o.color, o.erase, if o.slot = .left then s.params.xoffLeft else s.params.xoffRight⟩ }) ∧
    exec .dsrInvalidate s = .next { s with
      lat := ⟨0xA#4, 0#8, .left, s.fg, s.bg⟩
      seq := { s.seq with mode := .dsrRun, ops := [], j := 0 }
      seg := none }

/-- The frame of acceptance, as the host sees it: every register reads as before, but for STATUS, which differs in BUSY alone
(R171, R63). That `irq`, the synchronizer and the inputs stay is the model's choice: exec is applied after the rest of the edge
has moved them (logs 9 and 1). -/
def Obligations.AcceptanceChangesOnlyBusy : Prop :=
  ∀ (i : Instr) (s : State), i.WellFormed → s.busy = false → ∃ t, exec i s = .next t ∧
    (∀ off : BitVec 5, off.toNat / 4 ≠ 1 → t.regRead off = s.regRead off) ∧
    t.regRead 0x04#5 = s.regRead 0x04#5 ||| 1#32 ∧
    t.irq = s.irq ∧ t.sync = s.sync ∧ t.params = s.params ∧ t.env = s.env

/-! ### Waveforms (40_onewire.md R105 to R112) -/

/-- Phases and durations of the waveforms, over the parameters (R105, R107 to R112, R119): which levels, durations and captures
each phase has, in order, and what they sum to. -/
def Obligations.WaveformDurations : Prop :=
  ∀ p : Params,
    (resetWave p = [⟨true, p.tRstLow, .none⟩, ⟨false, p.tRstWait, .presence⟩] ∧
      waveUs (resetWave p) = p.tRstLow + p.tRstWait) ∧
    (∀ b : BitVec 8, (writeByteWave p b).length = 16 ∧
      (∀ i, i < 8 →
        (writeByteWave p b)[2 * i]? = some ⟨true, if b.getLsbD i then p.tW1Low else p.tW0Low, .none⟩ ∧
        (writeByteWave p b)[2 * i + 1]? = some ⟨false, if b.getLsbD i then p.tW1Rel else p.tW0Rel, .none⟩) ∧
      waveUs (writeByteWave p b) =
        ((List.range 8).map fun i => if b.getLsbD i then p.tW1Low + p.tW1Rel else p.tW0Low + p.tW0Rel).sum) ∧
    ((readWordWave p).length = 48 ∧
      (∀ i : Fin 16,
        (readWordWave p)[3 * i.val]? = some ⟨true, p.tRLow, .none⟩ ∧
        (readWordWave p)[3 * i.val + 1]? = some ⟨false, p.tRSample, .bit i⟩ ∧
        (readWordWave p)[3 * i.val + 2]? = some ⟨false, p.tRIdle, .none⟩) ∧
      waveUs (readWordWave p) = 16 * (p.tRLow + p.tRSample + p.tRIdle)) ∧
    ((readTempWave p).length = 117 ∧
      readTempWave p = resetWave p ++ writeByteWave p 0xCC#8 ++ writeByteWave p 0x44#8 ++ [⟨false, p.tConv, .none⟩] ++
        resetWave p ++ writeByteWave p 0xCC#8 ++ writeByteWave p 0xBE#8 ++ readWordWave p ∧
      waveUs (readTempWave p) = 2 * (p.tRstLow + p.tRstWait) + p.tConv + 16 * (p.tRLow + p.tRSample + p.tRIdle) +
        2 * waveUs (writeByteWave p 0xCC#8) + waveUs (writeByteWave p 0x44#8) + waveUs (writeByteWave p 0xBE#8))

/-- With the default bit timings a byte lasts 488 µs whatever it is, and OW_READ_TEMP 754832 µs (R114, R116, R119). -/
def Obligations.DefaultWaveformDurations : Prop :=
  ∀ (ticks base : Nat) (rects : Vector Rect 7),
    waveUs (resetWave (Params.defaults ticks base rects)) = 960 ∧
    (∀ b : BitVec 8, waveUs (writeByteWave (Params.defaults ticks base rects) b) = 488) ∧
    waveUs (readWordWave (Params.defaults ticks base rects)) = 960 ∧
    waveUs (readTempWave (Params.defaults ticks base rects)) = 754832

/-! ### Running an OW command -/

/-- An accepted OW command drives its waveform on the line cycle by cycle, is busy throughout, and completes exactly
D(wave) × TICKS_PER_US edges later, whatever the line and the host do, unless `rst` comes (R103, R117, R120). -/
def Obligations.OwCommandRunsItsWaveform : Prop :=
  ∀ (i : Instr) (wave : List Phase) (s : State), s.params.Ok → s.busy = false → owWave s.params i = some wave →
    s.NoReset (waveTicks s.params wave) →
    ∃ t, exec i s = .next t ∧
      (∀ m, m < waveTicks s.params wave →
        ∃ u, run m t = .next u ∧ u.busy = true ∧ (driveTrace s.params wave)[m]? = some u.owDriveLow) ∧
      ∃ u, run (waveTicks s.params wave) t = .next u ∧ u.busy = false ∧ u.done = true ∧ u.owDriveLow = false

/-- OW_RESET's result (R113, R106, R104): PRESENCE is the inverse of the level `ow_in` had SYNC_STAGES edges before the edge
that ends its second phase. OW_DATA, the slots and, but for host writes, all else stay. That an edge registers the level of the
cycle it begins is DEDUCED (log 23). -/
def Obligations.OwResetReportsPresence : Prop :=
  ∀ s : State, s.params.Ok → s.busy = false →
    s.NoReset ((s.params.tRstLow + s.params.tRstWait) * s.params.ticksPerUs) →
    ∃ t u, exec .owReset s = .next t ∧ run ((s.params.tRstLow + s.params.tRstWait) * s.params.ticksPerUs) t = .next u ∧
      u.presence = !s.env.owInAt ((s.params.tRstLow + s.params.tRstWait) * s.params.ticksPerUs - s.params.syncStages) ∧
      u.presValid = true ∧ u.busy = false ∧ u.done = true ∧
      u.rdata = s.rdata ∧ u.slotLeft = s.slotLeft ∧ u.slotRight = s.slotRight ∧
      ((∀ c ∈ s.env.host.take ((s.params.tRstLow + s.params.tRstWait) * s.params.ticksPerUs), c.hWr = false) →
        u.fg = s.fg ∧ u.bg = s.bg ∧ u.doneIe = s.doneIe ∧ u.errIe = s.errIe ∧
        u.cmdErr = s.cmdErr ∧ u.overrun = s.overrun ∧ u.cause = s.cause)

/-- OW_WRITE_BYTE's result (R114): DONE and BUSY only; nothing is sampled, which `rshift` and `pres_tmp` show. That they keep
their values in the idle blocks before and after it is the model's choice (log 15). -/
def Obligations.OwWriteByteWritesOnlyDone : Prop :=
  ∀ (byte : BitVec 8) (s : State), s.params.Ok → s.busy = false →
    s.NoReset (waveTicks s.params (writeByteWave s.params byte)) →
    ∃ t u, exec (.owWriteByte byte) s = .next t ∧ run (waveTicks s.params (writeByteWave s.params byte)) t = .next u ∧
      u.busy = false ∧ u.done = true ∧ u.presence = s.presence ∧ u.presValid = s.presValid ∧
      u.rdata = s.rdata ∧ u.slotLeft = s.slotLeft ∧ u.slotRight = s.slotRight ∧
      u.seq.rshift = s.seq.rshift ∧ u.seq.presTmp = s.seq.presTmp ∧
      ((∀ c ∈ s.env.host.take (waveTicks s.params (writeByteWave s.params byte)), c.hWr = false) →
        u.fg = s.fg ∧ u.bg = s.bg ∧ u.doneIe = s.doneIe ∧ u.errIe = s.errIe ∧
        u.cmdErr = s.cmdErr ∧ u.overrun = s.overrun ∧ u.cause = s.cause)

/-- OW_READ_WORD's result (R115, R110, R104): bit `i` of RDATA is the level `ow_in` had SYNC_STAGES edges before the edge that
ends slot `i`'s sampling phase. PRESENCE and the slots stay. That an edge registers the level of the
cycle it begins is DEDUCED (log 23). -/
def Obligations.OwReadWordAssemblesTheBits : Prop :=
  ∀ s : State, s.params.Ok → s.busy = false →
    s.NoReset (16 * (s.params.tRLow + s.params.tRSample + s.params.tRIdle) * s.params.ticksPerUs) →
    ∃ t u, exec .owReadWord s = .next t ∧
      run (16 * (s.params.tRLow + s.params.tRSample + s.params.tRIdle) * s.params.ticksPerUs) t = .next u ∧
      (∀ i, i < 16 → u.rdata.getLsbD i =
        s.env.owInAt ((i * (s.params.tRLow + s.params.tRSample + s.params.tRIdle) + s.params.tRLow + s.params.tRSample) *
          s.params.ticksPerUs - s.params.syncStages)) ∧
      u.busy = false ∧ u.done = true ∧ u.presence = s.presence ∧ u.presValid = s.presValid ∧
      u.slotLeft = s.slotLeft ∧ u.slotRight = s.slotRight ∧
      ((∀ c ∈ s.env.host.take (16 * (s.params.tRLow + s.params.tRSample + s.params.tRIdle) * s.params.ticksPerUs),
          c.hWr = false) →
        u.fg = s.fg ∧ u.bg = s.bg ∧ u.doneIe = s.doneIe ∧ u.errIe = s.errIe ∧
        u.cmdErr = s.cmdErr ∧ u.overrun = s.overrun ∧ u.cause = s.cause)

/-- OW_READ_TEMP's result (R116, R112, D9): the word read at its end, and the presence of its second reset. `w` is where the
word starts and `r` where the second reset ends, in µs. That an edge registers the level of the
cycle it begins is DEDUCED (log 23). -/
def Obligations.OwReadTempReportsWordAndLastPresence : Prop :=
  ∀ (s : State) (w r total : Nat), s.params.Ok → s.busy = false →
    r = 2 * (s.params.tRstLow + s.params.tRstWait) + waveUs (writeByteWave s.params 0xCC#8) +
      waveUs (writeByteWave s.params 0x44#8) + s.params.tConv →
    w = r + waveUs (writeByteWave s.params 0xCC#8) + waveUs (writeByteWave s.params 0xBE#8) →
    total = (w + 16 * (s.params.tRLow + s.params.tRSample + s.params.tRIdle)) * s.params.ticksPerUs →
    s.NoReset total →
    ∃ t u, exec .owReadTemp s = .next t ∧ run total t = .next u ∧
      (∀ i, i < 16 → u.rdata.getLsbD i =
        s.env.owInAt ((w + i * (s.params.tRLow + s.params.tRSample + s.params.tRIdle) + s.params.tRLow + s.params.tRSample) *
          s.params.ticksPerUs - s.params.syncStages)) ∧
      u.presence = !s.env.owInAt (r * s.params.ticksPerUs - s.params.syncStages) ∧
      u.presValid = true ∧ u.busy = false ∧ u.done = true ∧ u.slotLeft = s.slotLeft ∧ u.slotRight = s.slotRight ∧
      ((∀ c ∈ s.env.host.take total, c.hWr = false) →
        u.fg = s.fg ∧ u.bg = s.bg ∧ u.doneIe = s.doneIe ∧ u.errIe = s.errIe ∧
        u.cmdErr = s.cmdErr ∧ u.overrun = s.overrun ∧ u.cause = s.cause)

/-- Every sample reads a level of its own release phase (R7, R104): what the synchronizer's last stage holds in the last cycle `u`
of a sampling phase `k` is the level that `ow_in` had in a cycle `v` of that same phase, with the line released in `v`; `v` begins
at the edge SYNC_STAGES before the capture. This holds at every legal parameter set, the bounds of R7 included. That an edge
registers the level of the cycle it begins is DEDUCED (log 23). -/
def Obligations.SamplesReadTheirReleasePhase : Prop :=
  ∀ (i : Instr) (wave : List Phase) (s : State) (k : Nat) (ph : Phase), s.params.Ok → s.busy = false →
    owWave s.params i = some wave → s.NoReset (waveTicks s.params wave) → wave[k]? = some ph → ph.tag ≠ .none →
    ∃ t u v, exec i s = .next t ∧
      run (waveTicks s.params (wave.take (k + 1)) - 1) t = .next u ∧
      run (waveTicks s.params (wave.take (k + 1)) - s.params.syncStages) t = .next v ∧
      u.seq.mode = .owRun ∧ u.seq.k = k ∧ u.seq.t = 1 ∧
      v.seq.mode = .owRun ∧ v.seq.k = k ∧ v.owDriveLow = false ∧
      u.sync[s.params.syncStages - 1]? = some v.owIn

/-! ### The segment ROM and op lists (41_renderer.md) -/

/-- The ROM's ten entries; it has no other, and none is the sentinel (R140, R141). -/
def Obligations.RomTableOfTheSource : Prop :=
  (List.range 16).map (fun d => rom (BitVec.ofNat 4 d)) =
    [some 0x7E#7, some 0x30#7, some 0x6D#7, some 0x79#7, some 0x33#7, some 0x5B#7, some 0x5F#7, some 0x70#7, some 0x7F#7,
      some 0x7B#7, none, none, none, none, none, none] ∧
  ∀ (d : BitVec 4) (v : Bitmap), rom d = some v → v ≠ 0#7

/-- What an op list holds and in which order (R144, R142): DSR_RENDER_FIRST draws the lit segments of the new bitmap;
DSR_RENDER the segments that differ, a draw in FG where the new bit is 1 and an erase in BG where it is 0; A to G. -/
def Obligations.OpListsHoldTheSegmentsInOrder : Prop :=
  (∀ (slot : Slot) (new : Bitmap) (fg : Half),
    (∀ o : SegOp, o ∈ opsFirst slot new fg ↔
      o.slot = slot ∧ o.seg.toNat ≤ 6 ∧ new.getLsbD (6 - o.seg.toNat) = true ∧ o.color = fg ∧ o.erase = false) ∧
    ((opsFirst slot new fg).map fun o => o.seg.toNat).Pairwise (· < ·) ∧
    (opsFirst slot new fg).length = popcount new) ∧
  (∀ (slot : Slot) (old new : Bitmap) (fg bg : Half),
    (∀ o : SegOp, o ∈ opsRender slot old new fg bg ↔
      o.slot = slot ∧ o.seg.toNat ≤ 6 ∧ old.getLsbD (6 - o.seg.toNat) ≠ new.getLsbD (6 - o.seg.toNat) ∧
      o.color = (if new.getLsbD (6 - o.seg.toNat) then fg else bg) ∧ o.erase = !new.getLsbD (6 - o.seg.toNat)) ∧
    ((opsRender slot old new fg bg).map fun o => o.seg.toNat).Pairwise (· < ·) ∧
    (opsRender slot old new fg bg).length = popcount (old ^^^ new)) ∧
  opsInvalidate = []

/-- From the sentinel DSR_RENDER emits what DSR_RENDER_FIRST emits (R150). -/
def Obligations.RenderFromSentinelIsRenderFirst : Prop :=
  ∀ (slot : Slot) (new : Bitmap) (fg bg : Half), opsRender slot 0#7 new fg bg = opsFirst slot new fg

/-- Rendering back emits the same segments with the colours swapped and the erase flags inverted, and restores a display that
showed the old bitmap (R152). -/
def Obligations.RenderBackIsTheInverse : Prop :=
  ∀ (slot : Slot) (old new : Bitmap) (fg bg : Half),
    opsRender slot new old fg bg =
      (opsRender slot old new fg bg).map (fun o => { o with color := if o.erase then fg else bg, erase := !o.erase }) ∧
    ∀ (p : Params) (d : Display), d.Shows slot old fg bg →
      (d.apply ((opsRender slot old new fg bg).map (SegOp.present p))).apply
        ((opsRender slot new old fg bg).map (SegOp.present p)) = d

/-! ### Running a DSR command -/

/-- An accepted DSR command offers its ops one by one in order, each held until the sink accepts it, and completes at the edge
that accepts the last, or one edge after acceptance if it has none (R145, R154). `port` is an op as the port presents it: the
list's slot, segment, colour and erase flag, with XOFF_LEFT for slot 0 and XOFF_RIGHT for slot 1 (R23, R143). -/
def Obligations.DsrCommandEmitsItsOps : Prop :=
  ∀ (i : Instr) (ops : List SegOp) (s : State) (port : SegOp → SegOut), s.busy = false → dsrOps s i = some ops →
    (∀ o, port o = ⟨o.slot, o.seg, o.color, o.erase, if o.slot = .left then s.params.xoffLeft else s.params.xoffRight⟩) →
    ∃ t, exec i s = .next t ∧
      (∀ m, s.NoReset m → s.env.readyCount m < ops.length ∨ m = 0 →
        ∃ u, run m t = .next u ∧ u.busy = true ∧ u.seg = ops[s.env.readyCount m]?.map port ∧
          acceptedOps m t = (ops.take (s.env.readyCount m)).map port) ∧
      (∀ m, s.NoReset (m + 1) → s.env.readyCount m < ops.length ∧ s.env.readyCount (m + 1) = ops.length ∨ ops = [] ∧ m = 0 →
        ∃ u, run (m + 1) t = .next u ∧ u.busy = false ∧ u.done = true ∧ u.seg = none ∧
          acceptedOps (m + 1) t = ops.map port)

/-- A DSR command of `n` ops is busy with the slots unchanged until its completion, however the sink stalls it, and has then
written the slot file and, of the registers, but for host writes, only it: a render its slot with the digit's bitmap, an
invalidate both slots with the sentinel. With `seg_ready` at 1 the completion is max(n, 1) edges after acceptance (R146 to R148,
R154). -/
def Obligations.DsrCommandWritesItsSlot : Prop :=
  ∀ (i : Instr) (ops : List SegOp) (s : State), s.busy = false → dsrOps s i = some ops →
    ∃ t, exec i s = .next t ∧
      (∀ m, s.NoReset (m + 1) →
        s.env.readyCount m < ops.length ∧ s.env.readyCount (m + 1) = ops.length ∨ ops = [] ∧ m = 0 →
        (∀ k, k ≤ m → ∃ v, run k t = .next v ∧ v.busy = true ∧ v.slotLeft = s.slotLeft ∧ v.slotRight = s.slotRight) ∧
        ∃ u, run (m + 1) t = .next u ∧ u.busy = false ∧ u.done = true ∧
          (∀ slot digit, i = .dsrRenderFirst slot digit ∨ i = .dsrRender slot digit →
            some (u.slot slot) = rom digit ∧ ∀ other, other ≠ slot → u.slot other = s.slot other) ∧
          (i = .dsrInvalidate → u.slotLeft = 0#7 ∧ u.slotRight = 0#7) ∧
          u.rdata = s.rdata ∧ u.presence = s.presence ∧ u.presValid = s.presValid ∧
          ((∀ c ∈ s.env.host.take (m + 1), c.hWr = false) →
            u.fg = s.fg ∧ u.bg = s.bg ∧ u.doneIe = s.doneIe ∧ u.errIe = s.errIe ∧
            u.cmdErr = s.cmdErr ∧ u.overrun = s.overrun ∧ u.cause = s.cause)) ∧
      (s.NoReset (max ops.length 1) → (∀ k, k < max ops.length 1 → s.env.segReadyAt k = true) →
        (∀ k, k < max ops.length 1 → ∃ v, run k t = .next v ∧ v.busy = true) ∧
        ∃ u, run (max ops.length 1) t = .next u ∧ u.busy = false ∧ u.done = true)

/-- DSR_RENDER of the digit a slot already shows emits nothing and completes at the next edge, leaving the slot (R151). -/
def Obligations.RenderOfSameDigitEmitsNothing : Prop :=
  ∀ (slot : Slot) (digit : BitVec 4) (s : State), s.busy = false → some (s.slot slot) = rom digit → s.NoReset 1 →
    ∃ t u, exec (.dsrRender slot digit) s = .next t ∧ t.seg = none ∧ run 1 t = .next u ∧ acceptedOps 1 t = [] ∧
      u.busy = false ∧ u.done = true ∧ u.slotLeft = s.slotLeft ∧ u.slotRight = s.slotRight

/-- While the sink does not accept, the offered op and the command stand still: BUSY stays 1, no completion (R145, R202). -/
def Obligations.StalledSinkHoldsTheOp : Prop :=
  ∀ (s : State), s.seq.mode = .dsrRun → s.seg ≠ none → s.segReady = false → s.hostPort.rst = false →
    ∃ t, step s = .next t ∧ t.seg = s.seg ∧ t.seq = s.seq ∧ t.busy = true ∧ t.lat = s.lat ∧
      t.slotLeft = s.slotLeft ∧ t.slotRight = s.slotRight ∧ t.owDriveLow = s.owDriveLow

/-- The display invariant (R153): if the display shows a slot's bitmap in the colours of COLOR before a DSR_RENDER of that
slot, then after its completion it shows the new one, and the other slot is untouched. -/
def Obligations.RenderKeepsTheDisplayInvariant : Prop :=
  ∀ (slot : Slot) (digit : BitVec 4) (new : Bitmap) (s : State) (d : Display) (m : Nat),
    s.busy = false → rom digit = some new → d.Shows slot (s.slot slot) s.fg s.bg → s.NoReset (m + 1) →
    s.env.readyCount m < popcount (s.slot slot ^^^ new) ∧ s.env.readyCount (m + 1) = popcount (s.slot slot ^^^ new) ∨
      s.slot slot = new ∧ m = 0 →
    ∃ t u, exec (.dsrRender slot digit) s = .next t ∧ run (m + 1) t = .next u ∧ u.busy = false ∧ u.slot slot = new ∧
      (d.apply (acceptedOps (m + 1) t)).Shows slot (u.slot slot) s.fg s.bg ∧
      ∀ other seg, other ≠ slot → d.apply (acceptedOps (m + 1) t) other seg = d other seg

/-- A cleared display and an invalidated slot agree, and DSR_RENDER_FIRST of such a slot makes the display show its digit (R153). -/
def Obligations.RenderFirstOnABlankSlotShowsTheDigit : Prop :=
  (∀ (d : Display) (slot : Slot) (fg bg : Half), (∀ j ∈ canonicalBits, d slot (segOfBit j) = bg) → d.Shows slot 0#7 fg bg) ∧
  ∀ (slot : Slot) (digit : BitVec 4) (new : Bitmap) (bg : Half) (s : State) (d : Display) (m : Nat),
    s.busy = false → rom digit = some new → s.slot slot = 0#7 → (∀ j ∈ canonicalBits, d slot (segOfBit j) = bg) →
    s.NoReset (m + 1) → s.env.readyCount m < popcount new → s.env.readyCount (m + 1) = popcount new →
    ∃ t u, exec (.dsrRenderFirst slot digit) s = .next t ∧ run (m + 1) t = .next u ∧ u.busy = false ∧ u.slot slot = new ∧
      (d.apply (acceptedOps (m + 1) t)).Shows slot new s.fg bg

/-! ### The interrupt, reset, and rules of the whole machine -/

/-- The synchronizer (R43): at every edge the level of `ow_in` in the cycle that the edge begins enters stage 0 and each stage
passes on; reset sets every stage; a sample reads the level registered SYNC_STAGES edges before it. That the level is the one of
the cycle the edge begins is DEDUCED (log 23). -/
def Obligations.SynchronizerDelaysTheLine : Prop :=
  (∀ s t : State, s.hostPort.rst = false → step s = .next t → s.sync.length = s.params.syncStages →
    t.sync.length = s.params.syncStages ∧
    ∀ i, i < s.params.syncStages → t.sync[i]? = if i = 0 then some (s.env.owInAt 1) else s.sync[i - 1]?) ∧
  (∀ s t : State, s.hostPort.rst = true → step s = .next t → t.sync = List.replicate s.params.syncStages true) ∧
  (∀ (s u : State) (n : Nat), 1 ≤ s.params.syncStages → s.params.syncStages ≤ n → s.NoReset n → run n s = .next u →
    u.sample = s.env.owInAt (n + 1 - s.params.syncStages))

/-- At every edge without reset `irq` takes the value the flags and enables had before it, whatever else the edge does (R177). -/
def Obligations.IrqFollowsItsSources : Prop :=
  ∀ s t : State, s.hostPort.rst = false → step s = .next t →
    t.irq = ((s.done && s.doneIe) || ((s.cmdErr || s.overrun) && s.errIe))

/-- An edge with `rst` = 1 gives every register its reset value from any state, whatever the host writes or a command does
(R190, R191, R45). That the parameters stay and the inputs move on is about the model's own fields (logs 2 and 1). -/
def Obligations.ResetEdgeResetsEverything : Prop :=
  ∀ s : State, s.hostPort.rst = true → ∃ t, step s = .next t ∧
    t.seq.mode = .idle ∧ t.busy = false ∧ t.done = false ∧ t.cmdErr = false ∧ t.overrun = false ∧ t.cause = 0#4 ∧
    t.presence = false ∧ t.presValid = false ∧ t.rdata = 0#16 ∧ t.fg = 0#16 ∧ t.bg = 0#16 ∧
    t.doneIe = false ∧ t.errIe = false ∧ t.slotLeft = 0#7 ∧ t.slotRight = 0#7 ∧
    t.sync = List.replicate s.params.syncStages true ∧ t.owDriveLow = false ∧ t.seg = none ∧ t.irq = false ∧
    t.params = s.params ∧ t.env = s.env.advance

/-- What the spec says of the state after reset, as the host and the outputs show it (R45, R192). -/
def Obligations.ResetStateValues : Prop :=
  (∀ off : BitVec 5, State.reset.regRead off = 0#32) ∧
  State.reset.seq.mode = .idle ∧ State.reset.sync = [true, true] ∧ State.reset.owDriveLow = false ∧
  State.reset.seg = none ∧ State.reset.irq = false

/-- Every step keeps the machine's invariant, under any inputs. -/
def Obligations.StepKeepsTheInvariant : Prop :=
  ∀ s t : State, s.Inv → step s = .next t → t.Inv

/-- The reset state of any legal parameter set has the invariant, and so has State.reset. -/
def Obligations.ResetHasTheInvariant : Prop :=
  (∀ (p : Params) (e : Env), p.Ok → (State.resetWith p e).Inv) ∧ State.reset.Inv

/-- No step changes a parameter (R8). -/
def Obligations.ParametersNeverChange : Prop :=
  ∀ s t : State, step s = .next t → t.params = s.params

/-- The phase counter is within CNT_WIDTH bits in every phase (R181, R7). -/
def Obligations.PhaseCounterFitsItsWidth : Prop :=
  ∀ s : State, s.Inv → s.seq.mode = .owRun → 1 ≤ s.seq.t ∧ s.seq.t < 2 ^ s.params.cntWidth

/-- BUSY rises only where a command is accepted and falls only at a completion, which sets DONE whatever the host writes; DONE
falls only where the host writes a 1 to it and no command completes; a rejection leaves both (R28, R29, R65, R171). -/
def Obligations.BusyAndDoneTransitions : Prop :=
  ∀ s t : State, s.hostPort.rst = false → step s = .next t →
    (s.completes = true → s.busy = true ∧ t.busy = false ∧ t.done = true) ∧
    (s.completes = false → s.busy = true → t.busy = true) ∧
    (s.busy = false → (t.busy = true ↔ ∃ w i, s.offered = some w ∧ decode w = .command i)) ∧
    (s.done = false → t.done = true → s.completes = true) ∧
    (s.done = true → t.done = false →
      s.hostPort.hWr = true ∧ s.hostPort.hAddr.toNat / 4 = 1 ∧ s.hostPort.hWdata.getLsbD 1 = true ∧ s.completes = false)

/-- RDATA, PRESENCE and PRES_VALID change only at completion edges of the commands that produce them, but for reset (R32, R33, R35). -/
def Obligations.OwResultsChangeOnlyAtTheirCompletions : Prop :=
  ∀ s t : State, s.hostPort.rst = false → step s = .next t →
    (t.rdata ≠ s.rdata → s.seq.mode = .owRun ∧ s.completes = true ∧ (s.lat.op = 0x3#4 ∨ s.lat.op = 0x4#4)) ∧
    (t.presence ≠ s.presence ∨ t.presValid ≠ s.presValid →
      s.seq.mode = .owRun ∧ s.completes = true ∧ (s.lat.op = 0x1#4 ∨ s.lat.op = 0x4#4)) ∧
    (s.presValid = true → t.presValid = true)

/-- A slot is written only at the completion edge of a render of it or of an invalidate, but for reset (R39). -/
def Obligations.SlotsChangeOnlyAtDsrCompletions : Prop :=
  ∀ (s t : State) (slot : Slot), s.hostPort.rst = false → step s = .next t → t.slot slot ≠ s.slot slot →
    s.seq.mode = .dsrRun ∧ s.completes = true ∧
    (s.lat.op = 0xA#4 ∧ t.slot slot = 0#7 ∨
      (s.lat.op = 0x8#4 ∨ s.lat.op = 0x9#4) ∧ s.lat.slot = slot ∧ rom (s.lat.arg.extractLsb' 0 4) = some (t.slot slot))

/-- CAUSE changes only where a command word is rejected, so neither an acknowledgement nor an accepted command changes it (R34). -/
def Obligations.CauseChangesOnlyAtRejections : Prop :=
  ∀ s t : State, s.hostPort.rst = false → step s = .next t → t.cause ≠ s.cause →
    ∃ w, s.offered = some w ∧ (s.busy = true ∧ t.cause = 4#4 ∨ s.busy = false ∧ ∃ c, decode w = .reject c)

/-- COLOR, IE and the error flags are the host's: without a host write an edge leaves them, whatever command runs (R36, R38, R64). -/
def Obligations.HostRegistersChangeOnlyByHostWrites : Prop :=
  ∀ s t : State, s.hostPort.rst = false → s.hostPort.hWr = false → step s = .next t →
    t.fg = s.fg ∧ t.bg = s.bg ∧ t.doneIe = s.doneIe ∧ t.errIe = s.errIe ∧ t.cmdErr = s.cmdErr ∧
    t.overrun = s.overrun ∧ t.cause = s.cause

/-- The latched operands hold from acceptance to completion (R41). That the completion edge leaves them too is the model's choice
(log 15). -/
def Obligations.LatchedOperandsHoldWhileBusy : Prop :=
  ∀ s t : State, s.hostPort.rst = false → s.busy = true → step s = .next t → t.lat = s.lat

/-- An idle block stays idle, its line released and no op offered, until a command is accepted (R101, R208). -/
def Obligations.IdleStaysIdle : Prop :=
  ∀ s : State, s.Inv → s.busy = false → (∀ w i, s.offered = some w → decode w ≠ .command i) →
    ∃ t, step s = .next t ∧ t.busy = false ∧ t.owDriveLow = false ∧ t.seg = none

/-- What COLOR holds while a command runs has no effect on the command: two busy states that differ in COLOR alone step to
states that differ in COLOR at most (R78, R199). -/
def Obligations.ColorWritesDoNotReachARunningCommand : Prop :=
  ∀ (s : State) (fg bg : Half), s.busy = true →
    ∃ t fg' bg', step s = .next t ∧ step { s with fg := fg, bg := bg } = .next { t with fg := fg', bg := bg' }

/-- The state the spec leaves unspecified while idle is never observed: whatever the latched operands and the sequencer
position hold, every later cycle shows the same line, `irq`, read values and accepted ops (R41, R42, U10). The model's reset
values of these fields (logs 5 and 6) are thereby without effect. -/
def Obligations.UnspecifiedIdleStateIsNeverObserved : Prop :=
  ∀ (s : State) (lat : Latched) (seq : Sequencer) (n : Nat), s.busy = false →
    observations n (s.withHidden lat seq) = observations n s

/-- The program notation's words (R90, R91), as accesses at the host port. -/
def Obligations.HostNotationWords : Prop :=
  hostSkipRom.cycle = HostCycle.write 0x00#5 0x0000CC02#32 ∧
  hostConvert.cycle = HostCycle.write 0x00#5 0x00004402#32 ∧
  hostReadScratch.cycle = HostCycle.write 0x00#5 0x0000BE02#32 ∧
  hostAck.cycle = HostCycle.write 0x04#5 0x0000000E#32 ∧
  (HostOp.command (.dsrRender .right 3#4)).cycle = HostCycle.write 0x00#5 0x00010309#32 ∧
  (HostOp.command .owReset).cycle = HostCycle.write 0x00#5 0x00000001#32
end

