-- ==== Sys2Proof/Laws/Decode.lean ====
section
/-! SUPPORT. The decoder said once: which words decode to which command, and what the opcode map takes from a word (30_encoding.md R83, R89). -/

namespace Sys2Proof

/-- A mask that holds [3:0] fixes the opcode of the words it matches (R83). -/
theorem op_of_masked {w m : Word} {k : BitVec 4} (hm : m &&& 0xF#32 = 0xF#32) (h : w &&& m = k.setWidth 32) : opField w = k := by
    apply BitVec.eq_of_getLsbD_eq
    intro i hi
    have h1 := congrArg (fun v : Word => v.getLsbD i) h
    have h2 := congrArg (fun v : Word => v.getLsbD i) hm
    simp only [opField, BitVec.getLsbD_extractLsb', BitVec.getLsbD_and, BitVec.getLsbD_setWidth] at h1 h2 ⊢
    interval_cases i <;> simp_all

/-- The decoder once the opcode is defined (R89). -/
theorem decode_of_op {w : Word} {fmt : Format} {i : Instr} (h : opcodeMap w = some (fmt, i)) :
   decode w = if w &&& fmt.mask ≠ (opField w).setWidth 32 then .reject .reservedField
    else if fmt = .D ∧ 9 < (digitField w).toNat then .reject .digitRange
    else .command i := by
  unfold decode; rw [h]

/-- A word decodes to a command exactly when its opcode is defined, its reserved bits are 0 and its digit is in range (R89). -/
theorem decode_command {w : Word} {i : Instr} : decode w = .command i ↔
    ∃ fmt, opcodeMap w = some (fmt, i) ∧ w &&& fmt.mask = (opField w).setWidth 32 ∧ (fmt = .D → (digitField w).toNat ≤ 9) := by
  unfold decode
  cases h : opcodeMap w with
  | none => simp
  | some p =>
    obtain ⟨fmt, j⟩ := p
    constructor
    · intro hd
      dsimp only at hd
      split at hd
      · cases hd
      · split at hd
        · cases hd
        · rename_i h1 h2
          injection hd with hd
          subst hd
          exact ⟨fmt, rfl, by simpa using h1, fun h => by by_contra hh; exact h2 ⟨h, by omega⟩⟩
    · rintro ⟨f, hf, h1, h2⟩
      injection hf with hf; injection hf with hf1 hf2; subst hf1; subst hf2
      dsimp only
      rw [if_neg (by simpa using h1), if_neg (by rintro ⟨h, hh⟩; have := h2 h; omega)]

/-- The opcode map gives a command its opcode, its format and its operands (R83, R84). -/
theorem opcodeMap_some {w : Word} {fmt : Format} {i : Instr} (h : opcodeMap w = some (fmt, i)) :
   i.op = opField w ∧ i.format = fmt ∧ (∀ b, i = .owWriteByte b → b = byteField w) ∧
   (∀ s d, i = .dsrRenderFirst s d ∨ i = .dsrRender s d → s = slotField w ∧ d = digitField w) := by
  unfold opcodeMap at h
  split at h <;> simp at h <;> obtain ⟨rfl, rfl⟩ := h <;> refine ⟨?_, rfl, by simp, ?_⟩ <;> first
    | (apply BitVec.eq_of_toNat_eq; simp_all [Instr.op]; done)
    | (intro s d h; simp at h; obtain ⟨rfl, rfl⟩ := h; exact ⟨rfl, rfl⟩)
    | (intro s d h; simp at h)

/-- The opcode map, row by row (R83). -/
theorem opcodeMap_of_op {w : Word} : 
  (opField w = 1#4 → opcodeMap w = some (.N, .owReset)) ∧
  (opField w = 2#4 → opcodeMap w = some (.B, .owWriteByte (byteField w))) ∧
  (opField w = 3#4 → opcodeMap w = some (.N, .owReadWord)) ∧
  (opField w = 4#4 → opcodeMap w = some (.N, .owReadTemp)) ∧
  (opField w = 8#4 → opcodeMap w = some (.D, .dsrRenderFirst (slotField w) (digitField w))) ∧
  (opField w = 9#4 → opcodeMap w = some (.D, .dsrRender (slotField w) (digitField w))) ∧
  (opField w = 10#4 → opcodeMap w = some (.N, .dsrInvalidate)) := by
  refine ⟨?_, ?_, ?_, ?_, ?_, ?_, ?_⟩ <;> intro h <;> simp [opcodeMap, h]

end Sys2Proof
end

