-- ==== Sys2Proof/Laws/State.lean ====
section
/-! SUPPORT. Field by field, what each named update of the state leaves and what it sets. -/

namespace Sys2Proof.Machine

/-! ### latch (10_state.md R41) -/

@[simp] theorem State.latch_params (op : BitVec 4) (arg : BitVec 8) (slot : Slot) (s : State) : (s.latch op arg slot).params = s.params := rfl
@[simp] theorem State.latch_done (op : BitVec 4) (arg : BitVec 8) (slot : Slot) (s : State) : (s.latch op arg slot).done = s.done := rfl
@[simp] theorem State.latch_cmdErr (op : BitVec 4) (arg : BitVec 8) (slot : Slot) (s : State) : (s.latch op arg slot).cmdErr = s.cmdErr := rfl
@[simp] theorem State.latch_overrun (op : BitVec 4) (arg : BitVec 8) (slot : Slot) (s : State) : (s.latch op arg slot).overrun = s.overrun := rfl
@[simp] theorem State.latch_presence (op : BitVec 4) (arg : BitVec 8) (slot : Slot) (s : State) : (s.latch op arg slot).presence = s.presence := rfl
@[simp] theorem State.latch_presValid (op : BitVec 4) (arg : BitVec 8) (slot : Slot) (s : State) : (s.latch op arg slot).presValid = s.presValid := rfl
@[simp] theorem State.latch_cause (op : BitVec 4) (arg : BitVec 8) (slot : Slot) (s : State) : (s.latch op arg slot).cause = s.cause := rfl
@[simp] theorem State.latch_rdata (op : BitVec 4) (arg : BitVec 8) (slot : Slot) (s : State) : (s.latch op arg slot).rdata = s.rdata := rfl
@[simp] theorem State.latch_fg (op : BitVec 4) (arg : BitVec 8) (slot : Slot) (s : State) : (s.latch op arg slot).fg = s.fg := rfl
@[simp] theorem State.latch_bg (op : BitVec 4) (arg : BitVec 8) (slot : Slot) (s : State) : (s.latch op arg slot).bg = s.bg := rfl
@[simp] theorem State.latch_doneIe (op : BitVec 4) (arg : BitVec 8) (slot : Slot) (s : State) : (s.latch op arg slot).doneIe = s.doneIe := rfl
@[simp] theorem State.latch_errIe (op : BitVec 4) (arg : BitVec 8) (slot : Slot) (s : State) : (s.latch op arg slot).errIe = s.errIe := rfl
@[simp] theorem State.latch_slotLeft (op : BitVec 4) (arg : BitVec 8) (slot : Slot) (s : State) : (s.latch op arg slot).slotLeft = s.slotLeft := rfl
@[simp] theorem State.latch_slotRight (op : BitVec 4) (arg : BitVec 8) (slot : Slot) (s : State) : (s.latch op arg slot).slotRight = s.slotRight := rfl
@[simp] theorem State.latch_seq (op : BitVec 4) (arg : BitVec 8) (slot : Slot) (s : State) : (s.latch op arg slot).seq = s.seq := rfl
@[simp] theorem State.latch_sync (op : BitVec 4) (arg : BitVec 8) (slot : Slot) (s : State) : (s.latch op arg slot).sync = s.sync := rfl
@[simp] theorem State.latch_owDriveLow (op : BitVec 4) (arg : BitVec 8) (slot : Slot) (s : State) : (s.latch op arg slot).owDriveLow = s.owDriveLow := rfl
@[simp] theorem State.latch_seg (op : BitVec 4) (arg : BitVec 8) (slot : Slot) (s : State) : (s.latch op arg slot).seg = s.seg := rfl
@[simp] theorem State.latch_irq (op : BitVec 4) (arg : BitVec 8) (slot : Slot) (s : State) : (s.latch op arg slot).irq = s.irq := rfl
@[simp] theorem State.latch_env (op : BitVec 4) (arg : BitVec 8) (slot : Slot) (s : State) : (s.latch op arg slot).env = s.env := rfl
@[simp] theorem State.latch_lat (op : BitVec 4) (arg : BitVec 8) (slot : Slot) (s : State) :
    (s.latch op arg slot).lat = ⟨op, arg, slot, s.fg, s.bg⟩ := rfl

/-! ### setSlot (R39) -/

@[simp] theorem State.setSlot_params (slot : Slot) (v : Bitmap) (s : State) : (s.setSlot slot v).params = s.params := by cases slot <;> rfl
@[simp] theorem State.setSlot_done (slot : Slot) (v : Bitmap) (s : State) : (s.setSlot slot v).done = s.done := by cases slot <;> rfl
@[simp] theorem State.setSlot_cmdErr (slot : Slot) (v : Bitmap) (s : State) : (s.setSlot slot v).cmdErr = s.cmdErr := by cases slot <;> rfl
@[simp] theorem State.setSlot_overrun (slot : Slot) (v : Bitmap) (s : State) : (s.setSlot slot v).overrun = s.overrun := by cases slot <;> rfl
@[simp] theorem State.setSlot_presence (slot : Slot) (v : Bitmap) (s : State) : (s.setSlot slot v).presence = s.presence := by cases slot <;> rfl
@[simp] theorem State.setSlot_presValid (slot : Slot) (v : Bitmap) (s : State) : (s.setSlot slot v).presValid = s.presValid := by cases slot <;> rfl
@[simp] theorem State.setSlot_cause (slot : Slot) (v : Bitmap) (s : State) : (s.setSlot slot v).cause = s.cause := by cases slot <;> rfl
@[simp] theorem State.setSlot_rdata (slot : Slot) (v : Bitmap) (s : State) : (s.setSlot slot v).rdata = s.rdata := by cases slot <;> rfl
@[simp] theorem State.setSlot_fg (slot : Slot) (v : Bitmap) (s : State) : (s.setSlot slot v).fg = s.fg := by cases slot <;> rfl
@[simp] theorem State.setSlot_bg (slot : Slot) (v : Bitmap) (s : State) : (s.setSlot slot v).bg = s.bg := by cases slot <;> rfl
@[simp] theorem State.setSlot_doneIe (slot : Slot) (v : Bitmap) (s : State) : (s.setSlot slot v).doneIe = s.doneIe := by cases slot <;> rfl
@[simp] theorem State.setSlot_errIe (slot : Slot) (v : Bitmap) (s : State) : (s.setSlot slot v).errIe = s.errIe := by cases slot <;> rfl
@[simp] theorem State.setSlot_lat (slot : Slot) (v : Bitmap) (s : State) : (s.setSlot slot v).lat = s.lat := by cases slot <;> rfl
@[simp] theorem State.setSlot_seq (slot : Slot) (v : Bitmap) (s : State) : (s.setSlot slot v).seq = s.seq := by cases slot <;> rfl
@[simp] theorem State.setSlot_sync (slot : Slot) (v : Bitmap) (s : State) : (s.setSlot slot v).sync = s.sync := by cases slot <;> rfl
@[simp] theorem State.setSlot_owDriveLow (slot : Slot) (v : Bitmap) (s : State) : (s.setSlot slot v).owDriveLow = s.owDriveLow := by cases slot <;> rfl
@[simp] theorem State.setSlot_seg (slot : Slot) (v : Bitmap) (s : State) : (s.setSlot slot v).seg = s.seg := by cases slot <;> rfl
@[simp] theorem State.setSlot_irq (slot : Slot) (v : Bitmap) (s : State) : (s.setSlot slot v).irq = s.irq := by cases slot <;> rfl
@[simp] theorem State.setSlot_env (slot : Slot) (v : Bitmap) (s : State) : (s.setSlot slot v).env = s.env := by cases slot <;> rfl
@[simp] theorem State.slot_setSlot (slot other : Slot) (v : Bitmap) (s : State) :
    (s.setSlot slot v).slot other = if other = slot then v else s.slot other := by cases slot <;> cases other <;> rfl

/-! ### Host writes (20_memory.md R64) -/

@[simp] theorem State.writeStatus_params (set : Bool) (v : Word) (s : State) : (s.writeStatus set v).params = s.params := rfl
@[simp] theorem State.writeStatus_presence (set : Bool) (v : Word) (s : State) : (s.writeStatus set v).presence = s.presence := rfl
@[simp] theorem State.writeStatus_presValid (set : Bool) (v : Word) (s : State) : (s.writeStatus set v).presValid = s.presValid := rfl
@[simp] theorem State.writeStatus_cause (set : Bool) (v : Word) (s : State) : (s.writeStatus set v).cause = s.cause := rfl
@[simp] theorem State.writeStatus_rdata (set : Bool) (v : Word) (s : State) : (s.writeStatus set v).rdata = s.rdata := rfl
@[simp] theorem State.writeStatus_fg (set : Bool) (v : Word) (s : State) : (s.writeStatus set v).fg = s.fg := rfl
@[simp] theorem State.writeStatus_bg (set : Bool) (v : Word) (s : State) : (s.writeStatus set v).bg = s.bg := rfl
@[simp] theorem State.writeStatus_doneIe (set : Bool) (v : Word) (s : State) : (s.writeStatus set v).doneIe = s.doneIe := rfl
@[simp] theorem State.writeStatus_errIe (set : Bool) (v : Word) (s : State) : (s.writeStatus set v).errIe = s.errIe := rfl
@[simp] theorem State.writeStatus_slotLeft (set : Bool) (v : Word) (s : State) : (s.writeStatus set v).slotLeft = s.slotLeft := rfl
@[simp] theorem State.writeStatus_slotRight (set : Bool) (v : Word) (s : State) : (s.writeStatus set v).slotRight = s.slotRight := rfl
@[simp] theorem State.writeStatus_lat (set : Bool) (v : Word) (s : State) : (s.writeStatus set v).lat = s.lat := rfl
@[simp] theorem State.writeStatus_seq (set : Bool) (v : Word) (s : State) : (s.writeStatus set v).seq = s.seq := rfl
@[simp] theorem State.writeStatus_sync (set : Bool) (v : Word) (s : State) : (s.writeStatus set v).sync = s.sync := rfl
@[simp] theorem State.writeStatus_owDriveLow (set : Bool) (v : Word) (s : State) : (s.writeStatus set v).owDriveLow = s.owDriveLow := rfl
@[simp] theorem State.writeStatus_seg (set : Bool) (v : Word) (s : State) : (s.writeStatus set v).seg = s.seg := rfl
@[simp] theorem State.writeStatus_irq (set : Bool) (v : Word) (s : State) : (s.writeStatus set v).irq = s.irq := rfl
@[simp] theorem State.writeStatus_env (set : Bool) (v : Word) (s : State) : (s.writeStatus set v).env = s.env := rfl
@[simp] theorem State.writeColor_params (v : Word) (s : State) : (s.writeColor v).params = s.params := rfl
@[simp] theorem State.writeColor_done (v : Word) (s : State) : (s.writeColor v).done = s.done := rfl
@[simp] theorem State.writeColor_cmdErr (v : Word) (s : State) : (s.writeColor v).cmdErr = s.cmdErr := rfl
@[simp] theorem State.writeColor_overrun (v : Word) (s : State) : (s.writeColor v).overrun = s.overrun := rfl
@[simp] theorem State.writeColor_presence (v : Word) (s : State) : (s.writeColor v).presence = s.presence := rfl
@[simp] theorem State.writeColor_presValid (v : Word) (s : State) : (s.writeColor v).presValid = s.presValid := rfl
@[simp] theorem State.writeColor_cause (v : Word) (s : State) : (s.writeColor v).cause = s.cause := rfl
@[simp] theorem State.writeColor_rdata (v : Word) (s : State) : (s.writeColor v).rdata = s.rdata := rfl
@[simp] theorem State.writeColor_doneIe (v : Word) (s : State) : (s.writeColor v).doneIe = s.doneIe := rfl
@[simp] theorem State.writeColor_errIe (v : Word) (s : State) : (s.writeColor v).errIe = s.errIe := rfl
@[simp] theorem State.writeColor_slotLeft (v : Word) (s : State) : (s.writeColor v).slotLeft = s.slotLeft := rfl
@[simp] theorem State.writeColor_slotRight (v : Word) (s : State) : (s.writeColor v).slotRight = s.slotRight := rfl
@[simp] theorem State.writeColor_lat (v : Word) (s : State) : (s.writeColor v).lat = s.lat := rfl
@[simp] theorem State.writeColor_seq (v : Word) (s : State) : (s.writeColor v).seq = s.seq := rfl
@[simp] theorem State.writeColor_sync (v : Word) (s : State) : (s.writeColor v).sync = s.sync := rfl
@[simp] theorem State.writeColor_owDriveLow (v : Word) (s : State) : (s.writeColor v).owDriveLow = s.owDriveLow := rfl
@[simp] theorem State.writeColor_seg (v : Word) (s : State) : (s.writeColor v).seg = s.seg := rfl
@[simp] theorem State.writeColor_irq (v : Word) (s : State) : (s.writeColor v).irq = s.irq := rfl
@[simp] theorem State.writeColor_env (v : Word) (s : State) : (s.writeColor v).env = s.env := rfl
@[simp] theorem State.writeIe_params (v : Word) (s : State) : (s.writeIe v).params = s.params := rfl
@[simp] theorem State.writeIe_done (v : Word) (s : State) : (s.writeIe v).done = s.done := rfl
@[simp] theorem State.writeIe_cmdErr (v : Word) (s : State) : (s.writeIe v).cmdErr = s.cmdErr := rfl
@[simp] theorem State.writeIe_overrun (v : Word) (s : State) : (s.writeIe v).overrun = s.overrun := rfl
@[simp] theorem State.writeIe_presence (v : Word) (s : State) : (s.writeIe v).presence = s.presence := rfl
@[simp] theorem State.writeIe_presValid (v : Word) (s : State) : (s.writeIe v).presValid = s.presValid := rfl
@[simp] theorem State.writeIe_cause (v : Word) (s : State) : (s.writeIe v).cause = s.cause := rfl
@[simp] theorem State.writeIe_rdata (v : Word) (s : State) : (s.writeIe v).rdata = s.rdata := rfl
@[simp] theorem State.writeIe_fg (v : Word) (s : State) : (s.writeIe v).fg = s.fg := rfl
@[simp] theorem State.writeIe_bg (v : Word) (s : State) : (s.writeIe v).bg = s.bg := rfl
@[simp] theorem State.writeIe_slotLeft (v : Word) (s : State) : (s.writeIe v).slotLeft = s.slotLeft := rfl
@[simp] theorem State.writeIe_slotRight (v : Word) (s : State) : (s.writeIe v).slotRight = s.slotRight := rfl
@[simp] theorem State.writeIe_lat (v : Word) (s : State) : (s.writeIe v).lat = s.lat := rfl
@[simp] theorem State.writeIe_seq (v : Word) (s : State) : (s.writeIe v).seq = s.seq := rfl
@[simp] theorem State.writeIe_sync (v : Word) (s : State) : (s.writeIe v).sync = s.sync := rfl
@[simp] theorem State.writeIe_owDriveLow (v : Word) (s : State) : (s.writeIe v).owDriveLow = s.owDriveLow := rfl
@[simp] theorem State.writeIe_seg (v : Word) (s : State) : (s.writeIe v).seg = s.seg := rfl
@[simp] theorem State.writeIe_irq (v : Word) (s : State) : (s.writeIe v).irq = s.irq := rfl
@[simp] theorem State.writeIe_env (v : Word) (s : State) : (s.writeIe v).env = s.env := rfl
@[simp] theorem State.regWrite_params (set : Bool) (off : BitVec 5) (v : Word) (s : State) : (s.regWrite set off v).params = s.params := by
  unfold State.regWrite; split <;> rfl
@[simp] theorem State.regWrite_presence (set : Bool) (off : BitVec 5) (v : Word) (s : State) : (s.regWrite set off v).presence = s.presence := by
  unfold State.regWrite; split <;> rfl
@[simp] theorem State.regWrite_presValid (set : Bool) (off : BitVec 5) (v : Word) (s : State) : (s.regWrite set off v).presValid = s.presValid := by
  unfold State.regWrite; split <;> rfl
@[simp] theorem State.regWrite_cause (set : Bool) (off : BitVec 5) (v : Word) (s : State) : (s.regWrite set off v).cause = s.cause := by
  unfold State.regWrite; split <;> rfl
@[simp] theorem State.regWrite_rdata (set : Bool) (off : BitVec 5) (v : Word) (s : State) : (s.regWrite set off v).rdata = s.rdata := by
  unfold State.regWrite; split <;> rfl
@[simp] theorem State.regWrite_slotLeft (set : Bool) (off : BitVec 5) (v : Word) (s : State) : (s.regWrite set off v).slotLeft = s.slotLeft := by
  unfold State.regWrite; split <;> rfl
@[simp] theorem State.regWrite_slotRight (set : Bool) (off : BitVec 5) (v : Word) (s : State) : (s.regWrite set off v).slotRight = s.slotRight := by
  unfold State.regWrite; split <;> rfl
@[simp] theorem State.regWrite_lat (set : Bool) (off : BitVec 5) (v : Word) (s : State) : (s.regWrite set off v).lat = s.lat := by
  unfold State.regWrite; split <;> rfl
@[simp] theorem State.regWrite_seq (set : Bool) (off : BitVec 5) (v : Word) (s : State) : (s.regWrite set off v).seq = s.seq := by
  unfold State.regWrite; split <;> rfl
@[simp] theorem State.regWrite_sync (set : Bool) (off : BitVec 5) (v : Word) (s : State) : (s.regWrite set off v).sync = s.sync := by
  unfold State.regWrite; split <;> rfl
@[simp] theorem State.regWrite_owDriveLow (set : Bool) (off : BitVec 5) (v : Word) (s : State) : (s.regWrite set off v).owDriveLow = s.owDriveLow := by
  unfold State.regWrite; split <;> rfl
@[simp] theorem State.regWrite_seg (set : Bool) (off : BitVec 5) (v : Word) (s : State) : (s.regWrite set off v).seg = s.seg := by
  unfold State.regWrite; split <;> rfl
@[simp] theorem State.regWrite_irq (set : Bool) (off : BitVec 5) (v : Word) (s : State) : (s.regWrite set off v).irq = s.irq := by
  unfold State.regWrite; split <;> rfl
@[simp] theorem State.regWrite_env (set : Bool) (off : BitVec 5) (v : Word) (s : State) : (s.regWrite set off v).env = s.env := by
  unfold State.regWrite; split <;> rfl
@[simp] theorem State.withHost_params (c : HostCycle) (s : State) : (s.withHost c).params = s.params := rfl
@[simp] theorem State.withHost_done (c : HostCycle) (s : State) : (s.withHost c).done = s.done := rfl
@[simp] theorem State.withHost_cmdErr (c : HostCycle) (s : State) : (s.withHost c).cmdErr = s.cmdErr := rfl
@[simp] theorem State.withHost_overrun (c : HostCycle) (s : State) : (s.withHost c).overrun = s.overrun := rfl
@[simp] theorem State.withHost_presence (c : HostCycle) (s : State) : (s.withHost c).presence = s.presence := rfl
@[simp] theorem State.withHost_presValid (c : HostCycle) (s : State) : (s.withHost c).presValid = s.presValid := rfl
@[simp] theorem State.withHost_cause (c : HostCycle) (s : State) : (s.withHost c).cause = s.cause := rfl
@[simp] theorem State.withHost_rdata (c : HostCycle) (s : State) : (s.withHost c).rdata = s.rdata := rfl
@[simp] theorem State.withHost_fg (c : HostCycle) (s : State) : (s.withHost c).fg = s.fg := rfl
@[simp] theorem State.withHost_bg (c : HostCycle) (s : State) : (s.withHost c).bg = s.bg := rfl
@[simp] theorem State.withHost_doneIe (c : HostCycle) (s : State) : (s.withHost c).doneIe = s.doneIe := rfl
@[simp] theorem State.withHost_errIe (c : HostCycle) (s : State) : (s.withHost c).errIe = s.errIe := rfl
@[simp] theorem State.withHost_slotLeft (c : HostCycle) (s : State) : (s.withHost c).slotLeft = s.slotLeft := rfl
@[simp] theorem State.withHost_slotRight (c : HostCycle) (s : State) : (s.withHost c).slotRight = s.slotRight := rfl
@[simp] theorem State.withHost_lat (c : HostCycle) (s : State) : (s.withHost c).lat = s.lat := rfl
@[simp] theorem State.withHost_seq (c : HostCycle) (s : State) : (s.withHost c).seq = s.seq := rfl
@[simp] theorem State.withHost_sync (c : HostCycle) (s : State) : (s.withHost c).sync = s.sync := rfl
@[simp] theorem State.withHost_owDriveLow (c : HostCycle) (s : State) : (s.withHost c).owDriveLow = s.owDriveLow := rfl
@[simp] theorem State.withHost_seg (c : HostCycle) (s : State) : (s.withHost c).seg = s.seg := rfl
@[simp] theorem State.withHost_irq (c : HostCycle) (s : State) : (s.withHost c).irq = s.irq := rfl

/-! ### cmdError (60_exceptions.md R175) -/

@[simp] theorem State.cmdError_params (c : Cause) (s : State) : (s.cmdError c).params = s.params := by cases c <;> rfl
@[simp] theorem State.cmdError_done (c : Cause) (s : State) : (s.cmdError c).done = s.done := by cases c <;> rfl
@[simp] theorem State.cmdError_presence (c : Cause) (s : State) : (s.cmdError c).presence = s.presence := by cases c <;> rfl
@[simp] theorem State.cmdError_presValid (c : Cause) (s : State) : (s.cmdError c).presValid = s.presValid := by cases c <;> rfl
@[simp] theorem State.cmdError_rdata (c : Cause) (s : State) : (s.cmdError c).rdata = s.rdata := by cases c <;> rfl
@[simp] theorem State.cmdError_fg (c : Cause) (s : State) : (s.cmdError c).fg = s.fg := by cases c <;> rfl
@[simp] theorem State.cmdError_bg (c : Cause) (s : State) : (s.cmdError c).bg = s.bg := by cases c <;> rfl
@[simp] theorem State.cmdError_doneIe (c : Cause) (s : State) : (s.cmdError c).doneIe = s.doneIe := by cases c <;> rfl
@[simp] theorem State.cmdError_errIe (c : Cause) (s : State) : (s.cmdError c).errIe = s.errIe := by cases c <;> rfl
@[simp] theorem State.cmdError_slotLeft (c : Cause) (s : State) : (s.cmdError c).slotLeft = s.slotLeft := by cases c <;> rfl
@[simp] theorem State.cmdError_slotRight (c : Cause) (s : State) : (s.cmdError c).slotRight = s.slotRight := by cases c <;> rfl
@[simp] theorem State.cmdError_lat (c : Cause) (s : State) : (s.cmdError c).lat = s.lat := by cases c <;> rfl
@[simp] theorem State.cmdError_seq (c : Cause) (s : State) : (s.cmdError c).seq = s.seq := by cases c <;> rfl
@[simp] theorem State.cmdError_sync (c : Cause) (s : State) : (s.cmdError c).sync = s.sync := by cases c <;> rfl
@[simp] theorem State.cmdError_owDriveLow (c : Cause) (s : State) : (s.cmdError c).owDriveLow = s.owDriveLow := by cases c <;> rfl
@[simp] theorem State.cmdError_seg (c : Cause) (s : State) : (s.cmdError c).seg = s.seg := by cases c <;> rfl
@[simp] theorem State.cmdError_irq (c : Cause) (s : State) : (s.cmdError c).irq = s.irq := by cases c <;> rfl
@[simp] theorem State.cmdError_env (c : Cause) (s : State) : (s.cmdError c).env = s.env := by cases c <;> rfl
@[simp] theorem State.cmdError_cause (c : Cause) (s : State) : (s.cmdError c).cause = causeCode c := by cases c <;> rfl

/-! ### complete (40_onewire.md R117, 41_renderer.md R154) -/

@[simp] theorem State.complete_params (s : State) : (s.complete).params = s.params := rfl
@[simp] theorem State.complete_cmdErr (s : State) : (s.complete).cmdErr = s.cmdErr := rfl
@[simp] theorem State.complete_overrun (s : State) : (s.complete).overrun = s.overrun := rfl
@[simp] theorem State.complete_presence (s : State) : (s.complete).presence = s.presence := rfl
@[simp] theorem State.complete_presValid (s : State) : (s.complete).presValid = s.presValid := rfl
@[simp] theorem State.complete_cause (s : State) : (s.complete).cause = s.cause := rfl
@[simp] theorem State.complete_rdata (s : State) : (s.complete).rdata = s.rdata := rfl
@[simp] theorem State.complete_fg (s : State) : (s.complete).fg = s.fg := rfl
@[simp] theorem State.complete_bg (s : State) : (s.complete).bg = s.bg := rfl
@[simp] theorem State.complete_doneIe (s : State) : (s.complete).doneIe = s.doneIe := rfl
@[simp] theorem State.complete_errIe (s : State) : (s.complete).errIe = s.errIe := rfl
@[simp] theorem State.complete_slotLeft (s : State) : (s.complete).slotLeft = s.slotLeft := rfl
@[simp] theorem State.complete_slotRight (s : State) : (s.complete).slotRight = s.slotRight := rfl
@[simp] theorem State.complete_lat (s : State) : (s.complete).lat = s.lat := rfl
@[simp] theorem State.complete_sync (s : State) : (s.complete).sync = s.sync := rfl
@[simp] theorem State.complete_irq (s : State) : (s.complete).irq = s.irq := rfl
@[simp] theorem State.complete_env (s : State) : (s.complete).env = s.env := rfl
@[simp] theorem State.complete_done (s : State) : s.complete.done = true := rfl
@[simp] theorem State.complete_owDriveLow (s : State) : s.complete.owDriveLow = false := rfl
@[simp] theorem State.complete_seg (s : State) : s.complete.seg = none := rfl
@[simp] theorem State.complete_seq_mode (s : State) : s.complete.seq.mode = .idle := rfl

/-! ### The OW unit (40_onewire.md R103, R117) -/

@[simp] theorem State.enterPhase_params (k : Nat) (s : State) : (s.enterPhase k).params = s.params := by
  unfold State.enterPhase; split <;> rfl
@[simp] theorem State.enterPhase_done (k : Nat) (s : State) : (s.enterPhase k).done = s.done := by
  unfold State.enterPhase; split <;> rfl
@[simp] theorem State.enterPhase_cmdErr (k : Nat) (s : State) : (s.enterPhase k).cmdErr = s.cmdErr := by
  unfold State.enterPhase; split <;> rfl
@[simp] theorem State.enterPhase_overrun (k : Nat) (s : State) : (s.enterPhase k).overrun = s.overrun := by
  unfold State.enterPhase; split <;> rfl
@[simp] theorem State.enterPhase_presence (k : Nat) (s : State) : (s.enterPhase k).presence = s.presence := by
  unfold State.enterPhase; split <;> rfl
@[simp] theorem State.enterPhase_presValid (k : Nat) (s : State) : (s.enterPhase k).presValid = s.presValid := by
  unfold State.enterPhase; split <;> rfl
@[simp] theorem State.enterPhase_cause (k : Nat) (s : State) : (s.enterPhase k).cause = s.cause := by
  unfold State.enterPhase; split <;> rfl
@[simp] theorem State.enterPhase_rdata (k : Nat) (s : State) : (s.enterPhase k).rdata = s.rdata := by
  unfold State.enterPhase; split <;> rfl
@[simp] theorem State.enterPhase_fg (k : Nat) (s : State) : (s.enterPhase k).fg = s.fg := by
  unfold State.enterPhase; split <;> rfl
@[simp] theorem State.enterPhase_bg (k : Nat) (s : State) : (s.enterPhase k).bg = s.bg := by
  unfold State.enterPhase; split <;> rfl
@[simp] theorem State.enterPhase_doneIe (k : Nat) (s : State) : (s.enterPhase k).doneIe = s.doneIe := by
  unfold State.enterPhase; split <;> rfl
@[simp] theorem State.enterPhase_errIe (k : Nat) (s : State) : (s.enterPhase k).errIe = s.errIe := by
  unfold State.enterPhase; split <;> rfl
@[simp] theorem State.enterPhase_slotLeft (k : Nat) (s : State) : (s.enterPhase k).slotLeft = s.slotLeft := by
  unfold State.enterPhase; split <;> rfl
@[simp] theorem State.enterPhase_slotRight (k : Nat) (s : State) : (s.enterPhase k).slotRight = s.slotRight := by
  unfold State.enterPhase; split <;> rfl
@[simp] theorem State.enterPhase_lat (k : Nat) (s : State) : (s.enterPhase k).lat = s.lat := by
  unfold State.enterPhase; split <;> rfl
@[simp] theorem State.enterPhase_sync (k : Nat) (s : State) : (s.enterPhase k).sync = s.sync := by
  unfold State.enterPhase; split <;> rfl
@[simp] theorem State.enterPhase_seg (k : Nat) (s : State) : (s.enterPhase k).seg = s.seg := by
  unfold State.enterPhase; split <;> rfl
@[simp] theorem State.enterPhase_irq (k : Nat) (s : State) : (s.enterPhase k).irq = s.irq := by
  unfold State.enterPhase; split <;> rfl
@[simp] theorem State.enterPhase_env (k : Nat) (s : State) : (s.enterPhase k).env = s.env := by
  unfold State.enterPhase; split <;> rfl
@[simp] theorem State.capture_params (tag : Tag) (s : State) : (s.capture tag).params = s.params := by cases tag <;> rfl
@[simp] theorem State.capture_done (tag : Tag) (s : State) : (s.capture tag).done = s.done := by cases tag <;> rfl
@[simp] theorem State.capture_cmdErr (tag : Tag) (s : State) : (s.capture tag).cmdErr = s.cmdErr := by cases tag <;> rfl
@[simp] theorem State.capture_overrun (tag : Tag) (s : State) : (s.capture tag).overrun = s.overrun := by cases tag <;> rfl
@[simp] theorem State.capture_presence (tag : Tag) (s : State) : (s.capture tag).presence = s.presence := by cases tag <;> rfl
@[simp] theorem State.capture_presValid (tag : Tag) (s : State) : (s.capture tag).presValid = s.presValid := by cases tag <;> rfl
@[simp] theorem State.capture_cause (tag : Tag) (s : State) : (s.capture tag).cause = s.cause := by cases tag <;> rfl
@[simp] theorem State.capture_rdata (tag : Tag) (s : State) : (s.capture tag).rdata = s.rdata := by cases tag <;> rfl
@[simp] theorem State.capture_fg (tag : Tag) (s : State) : (s.capture tag).fg = s.fg := by cases tag <;> rfl
@[simp] theorem State.capture_bg (tag : Tag) (s : State) : (s.capture tag).bg = s.bg := by cases tag <;> rfl
@[simp] theorem State.capture_doneIe (tag : Tag) (s : State) : (s.capture tag).doneIe = s.doneIe := by cases tag <;> rfl
@[simp] theorem State.capture_errIe (tag : Tag) (s : State) : (s.capture tag).errIe = s.errIe := by cases tag <;> rfl
@[simp] theorem State.capture_slotLeft (tag : Tag) (s : State) : (s.capture tag).slotLeft = s.slotLeft := by cases tag <;> rfl
@[simp] theorem State.capture_slotRight (tag : Tag) (s : State) : (s.capture tag).slotRight = s.slotRight := by cases tag <;> rfl
@[simp] theorem State.capture_lat (tag : Tag) (s : State) : (s.capture tag).lat = s.lat := by cases tag <;> rfl
@[simp] theorem State.capture_sync (tag : Tag) (s : State) : (s.capture tag).sync = s.sync := by cases tag <;> rfl
@[simp] theorem State.capture_owDriveLow (tag : Tag) (s : State) : (s.capture tag).owDriveLow = s.owDriveLow := by cases tag <;> rfl
@[simp] theorem State.capture_seg (tag : Tag) (s : State) : (s.capture tag).seg = s.seg := by cases tag <;> rfl
@[simp] theorem State.capture_irq (tag : Tag) (s : State) : (s.capture tag).irq = s.irq := by cases tag <;> rfl
@[simp] theorem State.capture_env (tag : Tag) (s : State) : (s.capture tag).env = s.env := by cases tag <;> rfl
@[simp] theorem State.finishOw_params (s : State) : (s.finishOw).params = s.params := by
  unfold State.finishOw; split <;> rfl
@[simp] theorem State.finishOw_done (s : State) : (s.finishOw).done = s.done := by
  unfold State.finishOw; split <;> rfl
@[simp] theorem State.finishOw_cmdErr (s : State) : (s.finishOw).cmdErr = s.cmdErr := by
  unfold State.finishOw; split <;> rfl
@[simp] theorem State.finishOw_overrun (s : State) : (s.finishOw).overrun = s.overrun := by
  unfold State.finishOw; split <;> rfl
@[simp] theorem State.finishOw_cause (s : State) : (s.finishOw).cause = s.cause := by
  unfold State.finishOw; split <;> rfl
@[simp] theorem State.finishOw_fg (s : State) : (s.finishOw).fg = s.fg := by
  unfold State.finishOw; split <;> rfl
@[simp] theorem State.finishOw_bg (s : State) : (s.finishOw).bg = s.bg := by
  unfold State.finishOw; split <;> rfl
@[simp] theorem State.finishOw_doneIe (s : State) : (s.finishOw).doneIe = s.doneIe := by
  unfold State.finishOw; split <;> rfl
@[simp] theorem State.finishOw_errIe (s : State) : (s.finishOw).errIe = s.errIe := by
  unfold State.finishOw; split <;> rfl
@[simp] theorem State.finishOw_slotLeft (s : State) : (s.finishOw).slotLeft = s.slotLeft := by
  unfold State.finishOw; split <;> rfl
@[simp] theorem State.finishOw_slotRight (s : State) : (s.finishOw).slotRight = s.slotRight := by
  unfold State.finishOw; split <;> rfl
@[simp] theorem State.finishOw_lat (s : State) : (s.finishOw).lat = s.lat := by
  unfold State.finishOw; split <;> rfl
@[simp] theorem State.finishOw_seq (s : State) : (s.finishOw).seq = s.seq := by
  unfold State.finishOw; split <;> rfl
@[simp] theorem State.finishOw_sync (s : State) : (s.finishOw).sync = s.sync := by
  unfold State.finishOw; split <;> rfl
@[simp] theorem State.finishOw_owDriveLow (s : State) : (s.finishOw).owDriveLow = s.owDriveLow := by
  unfold State.finishOw; split <;> rfl
@[simp] theorem State.finishOw_seg (s : State) : (s.finishOw).seg = s.seg := by
  unfold State.finishOw; split <;> rfl
@[simp] theorem State.finishOw_irq (s : State) : (s.finishOw).irq = s.irq := by
  unfold State.finishOw; split <;> rfl
@[simp] theorem State.finishOw_env (s : State) : (s.finishOw).env = s.env := by
  unfold State.finishOw; split <;> rfl

/-! ### The DSR unit (41_renderer.md R145, R154) -/

@[simp] theorem State.presentOp_params (j : Nat) (s : State) : (s.presentOp j).params = s.params := rfl
@[simp] theorem State.presentOp_done (j : Nat) (s : State) : (s.presentOp j).done = s.done := rfl
@[simp] theorem State.presentOp_cmdErr (j : Nat) (s : State) : (s.presentOp j).cmdErr = s.cmdErr := rfl
@[simp] theorem State.presentOp_overrun (j : Nat) (s : State) : (s.presentOp j).overrun = s.overrun := rfl
@[simp] theorem State.presentOp_presence (j : Nat) (s : State) : (s.presentOp j).presence = s.presence := rfl
@[simp] theorem State.presentOp_presValid (j : Nat) (s : State) : (s.presentOp j).presValid = s.presValid := rfl
@[simp] theorem State.presentOp_cause (j : Nat) (s : State) : (s.presentOp j).cause = s.cause := rfl
@[simp] theorem State.presentOp_rdata (j : Nat) (s : State) : (s.presentOp j).rdata = s.rdata := rfl
@[simp] theorem State.presentOp_fg (j : Nat) (s : State) : (s.presentOp j).fg = s.fg := rfl
@[simp] theorem State.presentOp_bg (j : Nat) (s : State) : (s.presentOp j).bg = s.bg := rfl
@[simp] theorem State.presentOp_doneIe (j : Nat) (s : State) : (s.presentOp j).doneIe = s.doneIe := rfl
@[simp] theorem State.presentOp_errIe (j : Nat) (s : State) : (s.presentOp j).errIe = s.errIe := rfl
@[simp] theorem State.presentOp_slotLeft (j : Nat) (s : State) : (s.presentOp j).slotLeft = s.slotLeft := rfl
@[simp] theorem State.presentOp_slotRight (j : Nat) (s : State) : (s.presentOp j).slotRight = s.slotRight := rfl
@[simp] theorem State.presentOp_lat (j : Nat) (s : State) : (s.presentOp j).lat = s.lat := rfl
@[simp] theorem State.presentOp_sync (j : Nat) (s : State) : (s.presentOp j).sync = s.sync := rfl
@[simp] theorem State.presentOp_owDriveLow (j : Nat) (s : State) : (s.presentOp j).owDriveLow = s.owDriveLow := rfl
@[simp] theorem State.presentOp_irq (j : Nat) (s : State) : (s.presentOp j).irq = s.irq := rfl
@[simp] theorem State.presentOp_env (j : Nat) (s : State) : (s.presentOp j).env = s.env := rfl
@[simp] theorem State.presentOp_seg (j : Nat) (s : State) :
    (s.presentOp j).seg = s.seq.ops[j]?.map (SegOp.present s.params) := rfl
@[simp] theorem State.finishDsr_params (s : State) : (s.finishDsr).params = s.params := by
  unfold State.finishDsr State.finishDsrRenderFirst State.finishDsrRender State.finishDsrInvalidate; (repeat' split) <;> simp
@[simp] theorem State.finishDsr_done (s : State) : (s.finishDsr).done = s.done := by
  unfold State.finishDsr State.finishDsrRenderFirst State.finishDsrRender State.finishDsrInvalidate; (repeat' split) <;> simp
@[simp] theorem State.finishDsr_cmdErr (s : State) : (s.finishDsr).cmdErr = s.cmdErr := by
  unfold State.finishDsr State.finishDsrRenderFirst State.finishDsrRender State.finishDsrInvalidate; (repeat' split) <;> simp
@[simp] theorem State.finishDsr_overrun (s : State) : (s.finishDsr).overrun = s.overrun := by
  unfold State.finishDsr State.finishDsrRenderFirst State.finishDsrRender State.finishDsrInvalidate; (repeat' split) <;> simp
@[simp] theorem State.finishDsr_presence (s : State) : (s.finishDsr).presence = s.presence := by
  unfold State.finishDsr State.finishDsrRenderFirst State.finishDsrRender State.finishDsrInvalidate; (repeat' split) <;> simp
@[simp] theorem State.finishDsr_presValid (s : State) : (s.finishDsr).presValid = s.presValid := by
  unfold State.finishDsr State.finishDsrRenderFirst State.finishDsrRender State.finishDsrInvalidate; (repeat' split) <;> simp
@[simp] theorem State.finishDsr_cause (s : State) : (s.finishDsr).cause = s.cause := by
  unfold State.finishDsr State.finishDsrRenderFirst State.finishDsrRender State.finishDsrInvalidate; (repeat' split) <;> simp
@[simp] theorem State.finishDsr_rdata (s : State) : (s.finishDsr).rdata = s.rdata := by
  unfold State.finishDsr State.finishDsrRenderFirst State.finishDsrRender State.finishDsrInvalidate; (repeat' split) <;> simp
@[simp] theorem State.finishDsr_fg (s : State) : (s.finishDsr).fg = s.fg := by
  unfold State.finishDsr State.finishDsrRenderFirst State.finishDsrRender State.finishDsrInvalidate; (repeat' split) <;> simp
@[simp] theorem State.finishDsr_bg (s : State) : (s.finishDsr).bg = s.bg := by
  unfold State.finishDsr State.finishDsrRenderFirst State.finishDsrRender State.finishDsrInvalidate; (repeat' split) <;> simp
@[simp] theorem State.finishDsr_doneIe (s : State) : (s.finishDsr).doneIe = s.doneIe := by
  unfold State.finishDsr State.finishDsrRenderFirst State.finishDsrRender State.finishDsrInvalidate; (repeat' split) <;> simp
@[simp] theorem State.finishDsr_errIe (s : State) : (s.finishDsr).errIe = s.errIe := by
  unfold State.finishDsr State.finishDsrRenderFirst State.finishDsrRender State.finishDsrInvalidate; (repeat' split) <;> simp
@[simp] theorem State.finishDsr_lat (s : State) : (s.finishDsr).lat = s.lat := by
  unfold State.finishDsr State.finishDsrRenderFirst State.finishDsrRender State.finishDsrInvalidate; (repeat' split) <;> simp
@[simp] theorem State.finishDsr_seq (s : State) : (s.finishDsr).seq = s.seq := by
  unfold State.finishDsr State.finishDsrRenderFirst State.finishDsrRender State.finishDsrInvalidate; (repeat' split) <;> simp
@[simp] theorem State.finishDsr_sync (s : State) : (s.finishDsr).sync = s.sync := by
  unfold State.finishDsr State.finishDsrRenderFirst State.finishDsrRender State.finishDsrInvalidate; (repeat' split) <;> simp
@[simp] theorem State.finishDsr_owDriveLow (s : State) : (s.finishDsr).owDriveLow = s.owDriveLow := by
  unfold State.finishDsr State.finishDsrRenderFirst State.finishDsrRender State.finishDsrInvalidate; (repeat' split) <;> simp
@[simp] theorem State.finishDsr_seg (s : State) : (s.finishDsr).seg = s.seg := by
  unfold State.finishDsr State.finishDsrRenderFirst State.finishDsrRender State.finishDsrInvalidate; (repeat' split) <;> simp
@[simp] theorem State.finishDsr_irq (s : State) : (s.finishDsr).irq = s.irq := by
  unfold State.finishDsr State.finishDsrRenderFirst State.finishDsrRender State.finishDsrInvalidate; (repeat' split) <;> simp
@[simp] theorem State.finishDsr_env (s : State) : (s.finishDsr).env = s.env := by
  unfold State.finishDsr State.finishDsrRenderFirst State.finishDsrRender State.finishDsrInvalidate; (repeat' split) <;> simp

/-! ### Accepting a command (R113 to R116, R146 to R148) -/

@[simp] theorem State.acceptOw_params (op : BitVec 4) (arg : BitVec 8) (wave : List Phase) (s : State) : (s.acceptOw op arg wave).params = s.params := by
  simp [State.acceptOw]
@[simp] theorem State.acceptOw_done (op : BitVec 4) (arg : BitVec 8) (wave : List Phase) (s : State) : (s.acceptOw op arg wave).done = s.done := by
  simp [State.acceptOw]
@[simp] theorem State.acceptOw_cmdErr (op : BitVec 4) (arg : BitVec 8) (wave : List Phase) (s : State) : (s.acceptOw op arg wave).cmdErr = s.cmdErr := by
  simp [State.acceptOw]
@[simp] theorem State.acceptOw_overrun (op : BitVec 4) (arg : BitVec 8) (wave : List Phase) (s : State) : (s.acceptOw op arg wave).overrun = s.overrun := by
  simp [State.acceptOw]
@[simp] theorem State.acceptOw_presence (op : BitVec 4) (arg : BitVec 8) (wave : List Phase) (s : State) : (s.acceptOw op arg wave).presence = s.presence := by
  simp [State.acceptOw]
@[simp] theorem State.acceptOw_presValid (op : BitVec 4) (arg : BitVec 8) (wave : List Phase) (s : State) : (s.acceptOw op arg wave).presValid = s.presValid := by
  simp [State.acceptOw]
@[simp] theorem State.acceptOw_cause (op : BitVec 4) (arg : BitVec 8) (wave : List Phase) (s : State) : (s.acceptOw op arg wave).cause = s.cause := by
  simp [State.acceptOw]
@[simp] theorem State.acceptOw_rdata (op : BitVec 4) (arg : BitVec 8) (wave : List Phase) (s : State) : (s.acceptOw op arg wave).rdata = s.rdata := by
  simp [State.acceptOw]
@[simp] theorem State.acceptOw_fg (op : BitVec 4) (arg : BitVec 8) (wave : List Phase) (s : State) : (s.acceptOw op arg wave).fg = s.fg := by
  simp [State.acceptOw]
@[simp] theorem State.acceptOw_bg (op : BitVec 4) (arg : BitVec 8) (wave : List Phase) (s : State) : (s.acceptOw op arg wave).bg = s.bg := by
  simp [State.acceptOw]
@[simp] theorem State.acceptOw_doneIe (op : BitVec 4) (arg : BitVec 8) (wave : List Phase) (s : State) : (s.acceptOw op arg wave).doneIe = s.doneIe := by
  simp [State.acceptOw]
@[simp] theorem State.acceptOw_errIe (op : BitVec 4) (arg : BitVec 8) (wave : List Phase) (s : State) : (s.acceptOw op arg wave).errIe = s.errIe := by
  simp [State.acceptOw]
@[simp] theorem State.acceptOw_slotLeft (op : BitVec 4) (arg : BitVec 8) (wave : List Phase) (s : State) : (s.acceptOw op arg wave).slotLeft = s.slotLeft := by
  simp [State.acceptOw]
@[simp] theorem State.acceptOw_slotRight (op : BitVec 4) (arg : BitVec 8) (wave : List Phase) (s : State) : (s.acceptOw op arg wave).slotRight = s.slotRight := by
  simp [State.acceptOw]
@[simp] theorem State.acceptOw_sync (op : BitVec 4) (arg : BitVec 8) (wave : List Phase) (s : State) : (s.acceptOw op arg wave).sync = s.sync := by
  simp [State.acceptOw]
@[simp] theorem State.acceptOw_seg (op : BitVec 4) (arg : BitVec 8) (wave : List Phase) (s : State) : (s.acceptOw op arg wave).seg = s.seg := by
  simp [State.acceptOw]
@[simp] theorem State.acceptOw_irq (op : BitVec 4) (arg : BitVec 8) (wave : List Phase) (s : State) : (s.acceptOw op arg wave).irq = s.irq := by
  simp [State.acceptOw]
@[simp] theorem State.acceptOw_env (op : BitVec 4) (arg : BitVec 8) (wave : List Phase) (s : State) : (s.acceptOw op arg wave).env = s.env := by
  simp [State.acceptOw]
@[simp] theorem State.acceptOw_lat (op : BitVec 4) (arg : BitVec 8) (wave : List Phase) (s : State) :
    (s.acceptOw op arg wave).lat = ⟨op, arg, .left, s.fg, s.bg⟩ := by simp [State.acceptOw]
@[simp] theorem State.acceptDsr_params (op : BitVec 4) (arg : BitVec 8) (slot : Slot) (ops : List SegOp) (s : State) : (s.acceptDsr op arg slot ops).params = s.params := rfl
@[simp] theorem State.acceptDsr_done (op : BitVec 4) (arg : BitVec 8) (slot : Slot) (ops : List SegOp) (s : State) : (s.acceptDsr op arg slot ops).done = s.done := rfl
@[simp] theorem State.acceptDsr_cmdErr (op : BitVec 4) (arg : BitVec 8) (slot : Slot) (ops : List SegOp) (s : State) : (s.acceptDsr op arg slot ops).cmdErr = s.cmdErr := rfl
@[simp] theorem State.acceptDsr_overrun (op : BitVec 4) (arg : BitVec 8) (slot : Slot) (ops : List SegOp) (s : State) : (s.acceptDsr op arg slot ops).overrun = s.overrun := rfl
@[simp] theorem State.acceptDsr_presence (op : BitVec 4) (arg : BitVec 8) (slot : Slot) (ops : List SegOp) (s : State) : (s.acceptDsr op arg slot ops).presence = s.presence := rfl
@[simp] theorem State.acceptDsr_presValid (op : BitVec 4) (arg : BitVec 8) (slot : Slot) (ops : List SegOp) (s : State) : (s.acceptDsr op arg slot ops).presValid = s.presValid := rfl
@[simp] theorem State.acceptDsr_cause (op : BitVec 4) (arg : BitVec 8) (slot : Slot) (ops : List SegOp) (s : State) : (s.acceptDsr op arg slot ops).cause = s.cause := rfl
@[simp] theorem State.acceptDsr_rdata (op : BitVec 4) (arg : BitVec 8) (slot : Slot) (ops : List SegOp) (s : State) : (s.acceptDsr op arg slot ops).rdata = s.rdata := rfl
@[simp] theorem State.acceptDsr_fg (op : BitVec 4) (arg : BitVec 8) (slot : Slot) (ops : List SegOp) (s : State) : (s.acceptDsr op arg slot ops).fg = s.fg := rfl
@[simp] theorem State.acceptDsr_bg (op : BitVec 4) (arg : BitVec 8) (slot : Slot) (ops : List SegOp) (s : State) : (s.acceptDsr op arg slot ops).bg = s.bg := rfl
@[simp] theorem State.acceptDsr_doneIe (op : BitVec 4) (arg : BitVec 8) (slot : Slot) (ops : List SegOp) (s : State) : (s.acceptDsr op arg slot ops).doneIe = s.doneIe := rfl
@[simp] theorem State.acceptDsr_errIe (op : BitVec 4) (arg : BitVec 8) (slot : Slot) (ops : List SegOp) (s : State) : (s.acceptDsr op arg slot ops).errIe = s.errIe := rfl
@[simp] theorem State.acceptDsr_slotLeft (op : BitVec 4) (arg : BitVec 8) (slot : Slot) (ops : List SegOp) (s : State) : (s.acceptDsr op arg slot ops).slotLeft = s.slotLeft := rfl
@[simp] theorem State.acceptDsr_slotRight (op : BitVec 4) (arg : BitVec 8) (slot : Slot) (ops : List SegOp) (s : State) : (s.acceptDsr op arg slot ops).slotRight = s.slotRight := rfl
@[simp] theorem State.acceptDsr_sync (op : BitVec 4) (arg : BitVec 8) (slot : Slot) (ops : List SegOp) (s : State) : (s.acceptDsr op arg slot ops).sync = s.sync := rfl
@[simp] theorem State.acceptDsr_owDriveLow (op : BitVec 4) (arg : BitVec 8) (slot : Slot) (ops : List SegOp) (s : State) : (s.acceptDsr op arg slot ops).owDriveLow = s.owDriveLow := rfl
@[simp] theorem State.acceptDsr_irq (op : BitVec 4) (arg : BitVec 8) (slot : Slot) (ops : List SegOp) (s : State) : (s.acceptDsr op arg slot ops).irq = s.irq := rfl
@[simp] theorem State.acceptDsr_env (op : BitVec 4) (arg : BitVec 8) (slot : Slot) (ops : List SegOp) (s : State) : (s.acceptDsr op arg slot ops).env = s.env := rfl
@[simp] theorem State.acceptDsr_lat (op : BitVec 4) (arg : BitVec 8) (slot : Slot) (ops : List SegOp) (s : State) :
    (s.acceptDsr op arg slot ops).lat = ⟨op, arg, slot, s.fg, s.bg⟩ := rfl

/-! ### One edge of the sequencer (10_state.md R42) -/

@[simp] theorem State.owAdvance_params (s : State) : (s.owAdvance).params = s.params := by
  unfold State.owAdvance; dsimp only; (repeat' split) <;> simp
@[simp] theorem State.owAdvance_cmdErr (s : State) : (s.owAdvance).cmdErr = s.cmdErr := by
  unfold State.owAdvance; dsimp only; (repeat' split) <;> simp
@[simp] theorem State.owAdvance_overrun (s : State) : (s.owAdvance).overrun = s.overrun := by
  unfold State.owAdvance; dsimp only; (repeat' split) <;> simp
@[simp] theorem State.owAdvance_cause (s : State) : (s.owAdvance).cause = s.cause := by
  unfold State.owAdvance; dsimp only; (repeat' split) <;> simp
@[simp] theorem State.owAdvance_fg (s : State) : (s.owAdvance).fg = s.fg := by
  unfold State.owAdvance; dsimp only; (repeat' split) <;> simp
@[simp] theorem State.owAdvance_bg (s : State) : (s.owAdvance).bg = s.bg := by
  unfold State.owAdvance; dsimp only; (repeat' split) <;> simp
@[simp] theorem State.owAdvance_doneIe (s : State) : (s.owAdvance).doneIe = s.doneIe := by
  unfold State.owAdvance; dsimp only; (repeat' split) <;> simp
@[simp] theorem State.owAdvance_errIe (s : State) : (s.owAdvance).errIe = s.errIe := by
  unfold State.owAdvance; dsimp only; (repeat' split) <;> simp
@[simp] theorem State.owAdvance_slotLeft (s : State) : (s.owAdvance).slotLeft = s.slotLeft := by
  unfold State.owAdvance; dsimp only; (repeat' split) <;> simp
@[simp] theorem State.owAdvance_slotRight (s : State) : (s.owAdvance).slotRight = s.slotRight := by
  unfold State.owAdvance; dsimp only; (repeat' split) <;> simp
@[simp] theorem State.owAdvance_lat (s : State) : (s.owAdvance).lat = s.lat := by
  unfold State.owAdvance; dsimp only; (repeat' split) <;> simp
@[simp] theorem State.owAdvance_sync (s : State) : (s.owAdvance).sync = s.sync := by
  unfold State.owAdvance; dsimp only; (repeat' split) <;> simp
@[simp] theorem State.owAdvance_irq (s : State) : (s.owAdvance).irq = s.irq := by
  unfold State.owAdvance; dsimp only; (repeat' split) <;> simp
@[simp] theorem State.owAdvance_env (s : State) : (s.owAdvance).env = s.env := by
  unfold State.owAdvance; dsimp only; (repeat' split) <;> simp
@[simp] theorem State.dsrAdvance_params (s : State) : (s.dsrAdvance).params = s.params := by
  unfold State.dsrAdvance; (repeat' split) <;> simp
@[simp] theorem State.dsrAdvance_cmdErr (s : State) : (s.dsrAdvance).cmdErr = s.cmdErr := by
  unfold State.dsrAdvance; (repeat' split) <;> simp
@[simp] theorem State.dsrAdvance_overrun (s : State) : (s.dsrAdvance).overrun = s.overrun := by
  unfold State.dsrAdvance; (repeat' split) <;> simp
@[simp] theorem State.dsrAdvance_presence (s : State) : (s.dsrAdvance).presence = s.presence := by
  unfold State.dsrAdvance; (repeat' split) <;> simp
@[simp] theorem State.dsrAdvance_presValid (s : State) : (s.dsrAdvance).presValid = s.presValid := by
  unfold State.dsrAdvance; (repeat' split) <;> simp
@[simp] theorem State.dsrAdvance_cause (s : State) : (s.dsrAdvance).cause = s.cause := by
  unfold State.dsrAdvance; (repeat' split) <;> simp
@[simp] theorem State.dsrAdvance_rdata (s : State) : (s.dsrAdvance).rdata = s.rdata := by
  unfold State.dsrAdvance; (repeat' split) <;> simp
@[simp] theorem State.dsrAdvance_fg (s : State) : (s.dsrAdvance).fg = s.fg := by
  unfold State.dsrAdvance; (repeat' split) <;> simp
@[simp] theorem State.dsrAdvance_bg (s : State) : (s.dsrAdvance).bg = s.bg := by
  unfold State.dsrAdvance; (repeat' split) <;> simp
@[simp] theorem State.dsrAdvance_doneIe (s : State) : (s.dsrAdvance).doneIe = s.doneIe := by
  unfold State.dsrAdvance; (repeat' split) <;> simp
@[simp] theorem State.dsrAdvance_errIe (s : State) : (s.dsrAdvance).errIe = s.errIe := by
  unfold State.dsrAdvance; (repeat' split) <;> simp
@[simp] theorem State.dsrAdvance_lat (s : State) : (s.dsrAdvance).lat = s.lat := by
  unfold State.dsrAdvance; (repeat' split) <;> simp
@[simp] theorem State.dsrAdvance_sync (s : State) : (s.dsrAdvance).sync = s.sync := by
  unfold State.dsrAdvance; (repeat' split) <;> simp
@[simp] theorem State.dsrAdvance_irq (s : State) : (s.dsrAdvance).irq = s.irq := by
  unfold State.dsrAdvance; (repeat' split) <;> simp
@[simp] theorem State.dsrAdvance_env (s : State) : (s.dsrAdvance).env = s.env := by
  unfold State.dsrAdvance; (repeat' split) <;> simp
@[simp] theorem State.advance_params (s : State) : (s.advance).params = s.params := by
  unfold State.advance; split <;> simp
@[simp] theorem State.advance_cmdErr (s : State) : (s.advance).cmdErr = s.cmdErr := by
  unfold State.advance; split <;> simp
@[simp] theorem State.advance_overrun (s : State) : (s.advance).overrun = s.overrun := by
  unfold State.advance; split <;> simp
@[simp] theorem State.advance_cause (s : State) : (s.advance).cause = s.cause := by
  unfold State.advance; split <;> simp
@[simp] theorem State.advance_fg (s : State) : (s.advance).fg = s.fg := by
  unfold State.advance; split <;> simp
@[simp] theorem State.advance_bg (s : State) : (s.advance).bg = s.bg := by
  unfold State.advance; split <;> simp
@[simp] theorem State.advance_doneIe (s : State) : (s.advance).doneIe = s.doneIe := by
  unfold State.advance; split <;> simp
@[simp] theorem State.advance_errIe (s : State) : (s.advance).errIe = s.errIe := by
  unfold State.advance; split <;> simp
@[simp] theorem State.advance_lat (s : State) : (s.advance).lat = s.lat := by
  unfold State.advance; split <;> simp
@[simp] theorem State.advance_sync (s : State) : (s.advance).sync = s.sync := by
  unfold State.advance; split <;> simp
@[simp] theorem State.advance_irq (s : State) : (s.advance).irq = s.irq := by
  unfold State.advance; split <;> simp
@[simp] theorem State.advance_env (s : State) : (s.advance).env = s.env := by
  unfold State.advance; split <;> simp
@[simp] theorem State.edge_params (s : State) : (s.edge).params = s.params := by simp [State.edge]
@[simp] theorem State.edge_cmdErr (s : State) : (s.edge).cmdErr = s.cmdErr := by simp [State.edge]
@[simp] theorem State.edge_overrun (s : State) : (s.edge).overrun = s.overrun := by simp [State.edge]
@[simp] theorem State.edge_cause (s : State) : (s.edge).cause = s.cause := by simp [State.edge]
@[simp] theorem State.edge_fg (s : State) : (s.edge).fg = s.fg := by simp [State.edge]
@[simp] theorem State.edge_bg (s : State) : (s.edge).bg = s.bg := by simp [State.edge]
@[simp] theorem State.edge_doneIe (s : State) : (s.edge).doneIe = s.doneIe := by simp [State.edge]
@[simp] theorem State.edge_errIe (s : State) : (s.edge).errIe = s.errIe := by simp [State.edge]
@[simp] theorem State.edge_lat (s : State) : (s.edge).lat = s.lat := by simp [State.edge]
@[simp] theorem State.edge_irq (s : State) : s.edge.irq = s.irqNext := rfl
@[simp] theorem State.edge_sync (s : State) : s.edge.sync = s.syncNext := rfl
@[simp] theorem State.edge_env (s : State) : s.edge.env = s.env.advance := rfl
@[simp] theorem State.edge_done (s : State) : s.edge.done = s.advance.done := rfl
@[simp] theorem State.edge_presence (s : State) : s.edge.presence = s.advance.presence := rfl
@[simp] theorem State.edge_presValid (s : State) : s.edge.presValid = s.advance.presValid := rfl
@[simp] theorem State.edge_rdata (s : State) : s.edge.rdata = s.advance.rdata := rfl
@[simp] theorem State.edge_slotLeft (s : State) : s.edge.slotLeft = s.advance.slotLeft := rfl
@[simp] theorem State.edge_slotRight (s : State) : s.edge.slotRight = s.advance.slotRight := rfl
@[simp] theorem State.edge_seq (s : State) : s.edge.seq = s.advance.seq := rfl
@[simp] theorem State.edge_owDriveLow (s : State) : s.edge.owDriveLow = s.advance.owDriveLow := rfl
@[simp] theorem State.edge_seg (s : State) : s.edge.seg = s.advance.seg := rfl

end Sys2Proof.Machine
end

