-- ==== Sys2Proof/Laws/Ops.lean ====
section
/-! SUPPORT. What each shared operation can do, said once: BUSY, phases, captures, completion, offering a command, one edge. -/

namespace Sys2Proof.Machine

/-! ### BUSY (10_state.md R28, R42) -/

theorem State.busy_eq_false_iff (s : State) : s.busy = false ↔ s.seq.mode = .idle := by
  unfold State.busy; cases h : s.seq.mode <;> simp

theorem State.busy_eq_true_iff (s : State) : s.busy = true ↔ s.seq.mode = .owRun ∨ s.seq.mode = .dsrRun := by
  unfold State.busy; cases h : s.seq.mode <;> simp

theorem State.busy_congr {s t : State} (h : t.seq.mode = s.seq.mode) : t.busy = s.busy := by
  unfold State.busy; rw [h]

@[simp] theorem State.cmdError_busy (c : Cause) (s : State) : (s.cmdError c).busy = s.busy := by
  unfold State.busy; rw [State.cmdError_seq]

@[simp] theorem State.regWrite_busy (set : Bool) (off : BitVec 5) (v : Word) (s : State) :
    (s.regWrite set off v).busy = s.busy := by
  unfold State.busy; rw [State.regWrite_seq]

@[simp] theorem State.withHost_busy (c : HostCycle) (s : State) : (s.withHost c).busy = s.busy := rfl

@[simp] theorem State.edge_busy (s : State) : s.edge.busy = s.advance.busy := rfl

@[simp] theorem State.complete_busy (s : State) : s.complete.busy = false := rfl

/-! ### The inputs -/

theorem Env.advance_hostAt (e : Env) (n : Nat) : e.advance.hostAt n = e.hostAt (n + 1) := by
  unfold Env.hostAt Env.advance; cases e.host <;> simp

theorem Env.advance_owInAt (e : Env) (n : Nat) : e.advance.owInAt n = e.owInAt (n + 1) := by
  unfold Env.owInAt Env.advance
  rw [show e.cycle + 1 + n = e.cycle + (n + 1) by omega]
  cases e.owIn <;> simp

theorem Env.advance_segReadyAt (e : Env) (n : Nat) : e.advance.segReadyAt n = e.segReadyAt (n + 1) := by
  unfold Env.segReadyAt Env.advance
  rw [show e.cycle + 1 + n = e.cycle + (n + 1) by omega]
  cases e.segReady <;> simp

@[simp] theorem State.withHost_hostPort (c : HostCycle) (s : State) : (s.withHost c).hostPort = c := by
  simp [State.hostPort, State.withHost, Env.hostAt]

@[simp] theorem State.withHost_env_advance (c : HostCycle) (s : State) : (s.withHost c).env.advance = s.env.advance := by
  simp [State.withHost, Env.advance]

@[simp] theorem State.withHost_segReady (c : HostCycle) (s : State) : (s.withHost c).segReady = s.segReady := rfl

@[simp] theorem State.withHost_syncNext (c : HostCycle) (s : State) : (s.withHost c).syncNext = s.syncNext := rfl

@[simp] theorem State.withHost_irqNext (c : HostCycle) (s : State) : (s.withHost c).irqNext = s.irqNext := rfl

/-- The sequencer does not see the host port. -/
theorem State.withHost_advance (c : HostCycle) (s : State) : (s.withHost c).advance = s.advance.withHost c := by
  unfold State.advance
  rw [State.withHost_seq]
  cases s.seq.mode with
  | idle => rfl
  | owRun =>
    dsimp only
    unfold State.owAdvance
    rw [show (s.withHost c).phaseEnds = s.phaseEnds from rfl, show (s.withHost c).lastPhase = s.lastPhase from rfl,
      show (s.withHost c).currentTag = s.currentTag from rfl]
    have hc : (s.withHost c).capture s.currentTag = (s.capture s.currentTag).withHost c := by
      cases s.currentTag <;> rfl
    dsimp only
    split
    · split
      · rw [hc]
        unfold State.finishOw
        rw [State.withHost_lat]
        split <;> rfl
      · rw [hc]
        unfold State.enterPhase
        rw [State.withHost_seq, State.withHost_seq]
        split <;> rfl
    · rfl
  | dsrRun =>
    dsimp only
    unfold State.dsrAdvance
    rw [show (s.withHost c).opsEnd = s.opsEnd from rfl, State.withHost_segReady]
    split
    · unfold State.finishDsr State.finishDsrRenderFirst State.finishDsrRender State.finishDsrInvalidate
      rw [State.withHost_lat]
      have hs : ∀ v, (s.withHost c).setSlot s.lat.slot v = (s.setSlot s.lat.slot v).withHost c := by
        intro v; cases s.lat.slot <;> rfl
      (repeat' split) <;> first | rfl | (rw [hs]; rfl)
    · split <;> rfl

/-- Nor does an edge without a host write. -/
@[simp] theorem State.withHost_edge (c : HostCycle) (s : State) : (s.withHost c).edge = s.edge := by
  unfold State.edge
  rw [State.withHost_advance]
  simp [State.withHost, Env.advance, State.irqNext, State.syncNext, State.owInAtEdge, Env.owInAt]

@[simp] theorem State.withHost_completes (c : HostCycle) (s : State) : (s.withHost c).completes = s.completes := rfl

/-! ### Completion -/

/-- At the edge at which a command completes, BUSY falls, DONE rises, the line is released and no op is offered (R117, R154). -/
theorem State.advance_of_completes {s : State} (h : s.completes = true) :
    ∃ r : State, s.advance = r.complete ∧ r.lat = s.lat := by
  unfold State.completes at h
  unfold State.advance
  cases hm : s.seq.mode with
  | idle => simp [hm] at h
  | owRun =>
    simp only [hm, Bool.and_eq_true] at h
    exact ⟨_, by simp only [State.owAdvance, h.1, h.2, if_true]; rfl, by simp⟩
  | dsrRun =>
    simp only [hm] at h
    exact ⟨_, by simp only [State.dsrAdvance, h, if_true]; rfl, by simp⟩

theorem State.enterPhase_mode (k : Nat) (s : State) : (s.enterPhase k).seq.mode = s.seq.mode := by
  unfold State.enterPhase; split <;> rfl

theorem State.capture_mode (tag : Tag) (s : State) : (s.capture tag).seq.mode = s.seq.mode := by
  cases tag <;> rfl

/-- At any other edge the mode, DONE, the results and the slots stay (R117, R154, R197). -/
theorem State.advance_of_not_completes {s : State} (h : s.completes = false) :
    s.advance.seq.mode = s.seq.mode ∧ s.advance.done = s.done ∧ s.advance.rdata = s.rdata ∧
    s.advance.presence = s.presence ∧ s.advance.presValid = s.presValid ∧
    s.advance.slotLeft = s.slotLeft ∧ s.advance.slotRight = s.slotRight := by
  unfold State.completes at h
  unfold State.advance
  cases hm : s.seq.mode with
  | idle => simp [hm]
  | owRun =>
    simp only [hm, Bool.and_eq_false_iff] at h
    unfold State.owAdvance
    by_cases hp : s.phaseEnds = true
    · have hl : s.lastPhase = false := by rcases h with h | h <;> simp_all
      simp [hp, hl, State.enterPhase_mode, State.capture_mode, hm]
    · simp [hp, hm]
  | dsrRun =>
    simp only [hm] at h
    unfold State.dsrAdvance
    by_cases hr : s.segReady = true <;> simp [h, hr, hm, State.presentOp]

/-! ### Offering a command (60_exceptions.md R171) -/

theorem State.offer_busy {s : State} (accept : State → State) (h : s.busy = true) :
    s.offer accept = .next (s.cmdError .overrun) := by simp [State.offer, h]

theorem State.offer_idle {s : State} (accept : State → State) (h : s.busy = false) :
    s.offer accept = .next (accept s) := by simp [State.offer, h]

/-- An idle block takes an edge without a host write unchanged but for `irq`, the synchronizer and the inputs. -/
theorem State.edge_of_idle {s : State} (h : s.busy = false) :
    s.edge = { s with irq := s.irqNext, sync := s.syncNext, env := s.env.advance } := by
  rw [State.busy_eq_false_iff] at h
  unfold State.edge State.advance
  rw [h]

end Sys2Proof.Machine
end

