-- ==== Sys2Proof/Laws/Step.lean ====
section
/-! SUPPORT. What one step can do (60_exceptions.md R171, 70_reset_and_hazards.md R190). -/

namespace Sys2Proof.Machine

theorem step_of_reset {s : State} (h : s.hostPort.rst = true) : step s = .next s.resetEdge := by
  simp [step, h]

theorem step_of_no_offer {s : State} (hr : s.hostPort.rst = false) (ho : s.offered = none) :
    step s = .next s.plainEdge := by
  simp [step, hr, ho]

theorem step_of_reject {s : State} {w : Word} {c : Cause} (hr : s.hostPort.rst = false) (ho : s.offered = some w)
    (hv : s.verdict w = .reject c) : step s = .next (s.edge.cmdError c) := by
  simp [step, hr, ho, hv]

theorem step_of_command {s : State} {w : Word} {i : Instr} (hr : s.hostPort.rst = false) (ho : s.offered = some w)
    (hv : s.verdict w = .command i) : step s = exec i s.edge := by
  simp [step, hr, ho, hv]

/-- An accepted word is offered to an idle block and decodes (R171). -/
theorem verdict_command {s : State} {w : Word} {i : Instr} (h : s.verdict w = .command i) :
    s.busy = false ∧ decode w = .command i := by
  unfold State.verdict at h
  cases hb : s.busy <;> simp_all

/-- A rejected word is offered to a busy block, or does not decode (R171). -/
theorem verdict_reject {s : State} {w : Word} {c : Cause} (h : s.verdict w = .reject c) :
    (s.busy = true ∧ c = .overrun) ∨ (s.busy = false ∧ decode w = .reject c) := by
  unfold State.verdict at h
  cases hb : s.busy <;> simp_all

/-- A write that is not to CMD is offered to no one. -/
theorem offered_eq_none_iff (s : State) :
    s.offered = none ↔ (s.hostPort.hWr = false ∨ regIndex s.hostPort.hAddr ≠ 0) := by
  unfold State.offered
  cases s.hostPort.hWr <;> simp

theorem offered_eq_some_iff (s : State) (w : Word) :
    s.offered = some w ↔ s.hostPort.hWr = true ∧ regIndex s.hostPort.hAddr = 0 ∧ s.hostPort.hWdata = w := by
  unfold State.offered
  cases s.hostPort.hWr <;> simp

/-- The cases of a step: reset, no command offered, a rejection, or exec at the edge's state. -/
theorem step_cases {s t : State} (h : step s = .next t) :
    (s.hostPort.rst = true ∧ t = s.resetEdge) ∨
    (s.hostPort.rst = false ∧ s.offered = none ∧ t = s.plainEdge) ∨
    (s.hostPort.rst = false ∧ ∃ w c, s.offered = some w ∧ s.verdict w = .reject c ∧ t = s.edge.cmdError c) ∨
    (s.hostPort.rst = false ∧ ∃ w i, s.offered = some w ∧ s.busy = false ∧ decode w = .command i ∧
      exec i s.edge = .next t) := by
  cases hr : s.hostPort.rst with
  | true => rw [step_of_reset hr] at h; injection h with h; exact .inl ⟨rfl, h.symm⟩
  | false =>
    cases ho : s.offered with
    | none => rw [step_of_no_offer hr ho] at h; injection h with h; exact .inr (.inl ⟨rfl, rfl, h.symm⟩)
    | some w =>
      cases hv : s.verdict w with
      | reject c =>
        rw [step_of_reject hr ho hv] at h; injection h with h
        exact .inr (.inr (.inl ⟨rfl, w, c, rfl, hv, h.symm⟩))
      | command i =>
        rw [step_of_command hr ho hv] at h
        exact .inr (.inr (.inr ⟨rfl, w, i, rfl, (verdict_command hv).1, (verdict_command hv).2, h⟩))

/-- What the sequencer, the synchronizer and the inputs make of two states is the same. -/
structure SameCore (a b : State) : Prop where
  params : a.params = b.params
  presence : a.presence = b.presence
  presValid : a.presValid = b.presValid
  rdata : a.rdata = b.rdata
  slotLeft : a.slotLeft = b.slotLeft
  slotRight : a.slotRight = b.slotRight
  lat : a.lat = b.lat
  seq : a.seq = b.seq
  sync : a.sync = b.sync
  owDriveLow : a.owDriveLow = b.owDriveLow
  seg : a.seg = b.seg
  irq : a.irq = b.irq
  env : a.env = b.env

theorem plainEdge_sameCore (s : State) : SameCore s.plainEdge s.edge := by
  unfold State.plainEdge
  split <;> constructor <;> simp only [State.regWrite_params, State.regWrite_presence, State.regWrite_presValid,
    State.regWrite_rdata, State.regWrite_slotLeft, State.regWrite_slotRight, State.regWrite_lat, State.regWrite_seq,
    State.regWrite_sync, State.regWrite_owDriveLow, State.regWrite_seg, State.regWrite_irq, State.regWrite_env]

theorem cmdError_sameCore (c : Cause) (s : State) : SameCore (s.cmdError c) s := by
  constructor <;> simp

/-- A step of a busy block without reset: the running command takes its edge whatever the host does (R173, R78). -/
theorem step_of_busy {s : State} (hr : s.hostPort.rst = false) (hb : s.busy = true) :
    ∃ t, step s = .next t ∧ SameCore t s.edge ∧ (s.completes = true → t.done = true) ∧
      (s.hostPort.hWr = false → t = s.edge) := by
  cases ho : s.offered with
  | none =>
    refine ⟨_, step_of_no_offer hr ho, plainEdge_sameCore s, fun hc => ?_, fun hw => by simp [State.plainEdge, hw]⟩
    obtain ⟨r, he, -⟩ := State.advance_of_completes hc
    have hd : s.edge.done = true := by rw [State.edge_done, he, State.complete_done]
    unfold State.plainEdge State.regWrite State.writeStatus w1c
    (repeat' split) <;> simp_all [State.writeColor, State.writeIe]
  | some w =>
    have hv : s.verdict w = .reject .overrun := by simp [State.verdict, hb]
    refine ⟨_, step_of_reject hr ho hv, cmdError_sameCore _ _, fun hc => ?_, fun hw => ?_⟩
    · obtain ⟨r, he, -⟩ := State.advance_of_completes hc
      simp [he]
    · rw [offered_eq_some_iff] at ho; simp [ho.1] at hw

end Sys2Proof.Machine
end

