-- ==== Sys2Proof/Laws/Run.lean ====
section
/-! SUPPORT. Runs of edges: composing them, and what a run without reset makes of the inputs and the synchronizer. -/

namespace Sys2Proof.Machine

@[simp] theorem run_zero (s : State) : run 0 s = .next s := rfl

theorem run_succ_of_step {n : Nat} {s t : State} (h : step s = .next t) : run (n + 1) s = run n t := by
  simp [run, h]

/-- A run of `m + n` edges is a run of `m` and then one of `n`. -/
theorem run_add {m n : Nat} {s t : State} (h : run m s = .next t) : run (m + n) s = run n t := by
  induction m generalizing s with
  | zero => simp at h; simp [h]
  | succ m ih =>
    rw [Nat.add_right_comm]
    cases hs : step s with
    | next u => rw [run_succ_of_step hs] at h ⊢; exact ih h
    | fault r => simp [run, hs] at h
    | refused r => simp [run, hs] at h

theorem acceptedOps_succ_of_step {n : Nat} {s t : State} (h : step s = .next t) :
    acceptedOps (n + 1) s = s.accepted.toList ++ acceptedOps n t := by
  simp [acceptedOps, h]

/-- The ops accepted in a run of `m + n` edges. -/
theorem acceptedOps_add {m n : Nat} {s t : State} (h : run m s = .next t) :
    acceptedOps (m + n) s = acceptedOps m s ++ acceptedOps n t := by
  induction m generalizing s with
  | zero => simp at h; simp [h, acceptedOps]
  | succ m ih =>
    rw [Nat.add_right_comm]
    cases hs : step s with
    | next u =>
      rw [run_succ_of_step hs] at h
      rw [acceptedOps_succ_of_step hs, acceptedOps_succ_of_step hs, ih h, List.append_assoc]
    | fault r => simp [run, hs] at h
    | refused r => simp [run, hs] at h

/-- `rst` is 0 in the cycles a run without reset passes. -/
theorem State.NoReset.hostAt {n m : Nat} {s : State} (h : s.NoReset n) (hm : m < n) : (s.env.hostAt m).rst = false := by
  unfold Env.hostAt
  by_cases hl : m < s.env.host.length
  · rw [List.getD_eq_getElem _ _ hl]
    exact h _ (List.mem_take_iff_getElem.2 ⟨m, by omega, rfl⟩)
  · rw [List.getD_eq_default _ _ (by omega)]; rfl

theorem State.NoReset.of_hostAt {n : Nat} {s : State} (h : ∀ m < n, (s.env.hostAt m).rst = false) : s.NoReset n := by
  intro c hc
  obtain ⟨m, hm, rfl⟩ := List.mem_take_iff_getElem.1 hc
  have := h m (by omega)
  unfold Env.hostAt at this
  rwa [List.getD_eq_getElem _ _ (by omega)] at this

/-- The inputs after `n` edges from inputs `e`. -/
structure EnvAt (e : Env) (n : Nat) (e' : Env) : Prop where
  hostAt : ∀ m, e'.hostAt m = e.hostAt (n + m)
  owInAt : ∀ m, e'.owInAt m = e.owInAt (n + m)
  segReadyAt : ∀ m, e'.segReadyAt m = e.segReadyAt (n + m)

theorem EnvAt.zero (e : Env) : EnvAt e 0 e := by constructor <;> simp

theorem EnvAt.advance {e e' : Env} {n : Nat} (h : EnvAt e n e') : EnvAt e (n + 1) e'.advance := by
  constructor <;> intro m
  · rw [Env.advance_hostAt, h.hostAt, show n + (m + 1) = n + 1 + m by omega]
  · rw [Env.advance_owInAt, h.owInAt, show n + (m + 1) = n + 1 + m by omega]
  · rw [Env.advance_segReadyAt, h.segReadyAt, show n + (m + 1) = n + 1 + m by omega]

/-- The synchronizer `n` edges after inputs `e`, no reset among them (10_state.md R43): stage `i` holds the level
registered `i` edges before the last. -/
def SyncAt (e : Env) (n stages : Nat) (sync : List Bool) : Prop :=
  ∀ i, i < n → i < stages → sync[i]? = some (e.owInAt (n - i))

theorem SyncAt.zero (e : Env) (stages : Nat) (sync : List Bool) : SyncAt e 0 stages sync := by
  intro i hi; omega

theorem SyncAt.next {e : Env} {n : Nat} {s : State} (he : EnvAt e n s.env)
    (h : SyncAt e n s.params.syncStages s.sync) : SyncAt e (n + 1) s.params.syncStages s.syncNext := by
  intro i hi hs
  unfold State.syncNext
  rw [List.getElem?_take, if_pos hs]
  cases i with
  | zero => simp [State.owInAtEdge, he.owInAt]
  | succ i =>
    rw [List.getElem?_cons_succ, h i (by omega) (by omega)]
    congr 2
    omega

/-- `Sample()` reads the level registered SYNC_STAGES edges before the next (40_onewire.md R104). -/
theorem SyncAt.sample {e : Env} {n : Nat} {s : State} (h : SyncAt e n s.params.syncStages s.sync)
    (h1 : 1 ≤ s.params.syncStages) (hn : s.params.syncStages ≤ n) : s.sample = e.owInAt (n + 1 - s.params.syncStages) := by
  unfold State.sample
  rw [List.getD_eq_getElem?_getD, h (s.params.syncStages - 1) (by omega) (by omega)]
  simp only [Option.getD_some]
  congr 1
  omega

end Sys2Proof.Machine
end

