-- ==== Sys2Proof/Laws/Renderer.lean ====
section
/-! SUPPORT. The DSR unit: the edges of an op list's emission, and a whole emission to its completion whatever the host does
(41_renderer.md R145, R154). -/

namespace Sys2Proof.Machine

/-- The block `n` edges after inputs `e` in DSR_RUN, offering op `j` of `ops`. The other fields are those of `z`, which the
run does not touch. -/
structure DsrAt (z : State) (e : Env) (ops : List SegOp) (n j : Nat) (u : State) : Prop where
  mode : u.seq.mode = .dsrRun
  ops_eq : u.seq.ops = ops
  j_eq : u.seq.j = j
  seg : u.seg = ops[j]?.map (SegOp.present z.params)
  params : u.params = z.params
  lat : u.lat = z.lat
  rdata : u.rdata = z.rdata
  presence : u.presence = z.presence
  presValid : u.presValid = z.presValid
  slotLeft : u.slotLeft = z.slotLeft
  slotRight : u.slotRight = z.slotRight
  env : EnvAt e n u.env

/-- The block after a DSR command has completed (R154). -/
structure DsrDone (z u : State) : Prop where
  busy : u.busy = false
  done : u.done = true
  seg : u.seg = none
  rdata : u.rdata = z.rdata
  presence : u.presence = z.presence
  presValid : u.presValid = z.presValid
  slots : ∃ r : State, r.lat = z.lat ∧ r.slotLeft = z.slotLeft ∧ r.slotRight = z.slotRight ∧
    u.slotLeft = r.finishDsr.slotLeft ∧ u.slotRight = r.finishDsr.slotRight

variable {z u : State} {e : Env} {ops : List SegOp} {n j : Nat}

theorem DsrAt.busy (h : DsrAt z e ops n j u) : u.busy = true := by
  rw [State.busy_eq_true_iff]; exact .inr h.mode

theorem DsrAt.accepted (h : DsrAt z e ops n j u) :
    u.accepted = if e.segReadyAt n then ops[j]?.map (SegOp.present z.params) else none := by
  simp [State.accepted, State.segReady, h.env.segReadyAt, h.seg]

/-- An edge that is not the last: the op is held, or the next one is presented (R145). -/
theorem DsrAt.tick (h : DsrAt z e ops n j u) (hr : (e.hostAt n).rst = false) (hj : j < ops.length)
    (hn : e.segReadyAt n = true → j + 1 < ops.length) :
    ∃ v, step u = .next v ∧ DsrAt z e ops (n + 1) (if e.segReadyAt n then j + 1 else j) v := by
  obtain ⟨v, hv, hc, -⟩ := step_of_busy (by rw [State.hostPort, h.env.hostAt]; exact hr) h.busy
  have hsr : u.segReady = e.segReadyAt n := by simp [State.segReady, h.env.segReadyAt]
  have hend : u.opsEnd = false := by
    simp only [State.opsEnd, h.seg, List.getElem?_eq_getElem hj, Option.map_some, h.ops_eq, h.j_eq, hsr]
    cases hb : e.segReadyAt n with
    | false => rfl
    | true => have := hn hb; simp; omega
  have ha : u.advance = if e.segReadyAt n then u.presentOp (j + 1) else u := by
    simp only [State.advance, h.mode, State.dsrAdvance, hend, hsr, h.j_eq, Bool.false_eq_true, if_false]
  refine ⟨v, hv, ?_⟩
  constructor
  case env => rw [hc.env, State.edge_env]; exact h.env.advance
  case mode => rw [hc.seq, State.edge_seq, ha]; split <;> exact h.mode
  case ops_eq => rw [hc.seq, State.edge_seq, ha]; split <;> exact h.ops_eq
  case j_eq => rw [hc.seq, State.edge_seq, ha]; split <;> first | rfl | exact h.j_eq
  case seg =>
    rw [hc.seg, State.edge_seg, ha]
    split
    · rw [State.presentOp_seg, h.ops_eq, h.params]
    · exact h.seg
  case params => rw [hc.params, State.edge_params]; exact h.params
  case lat => rw [hc.lat, State.edge_lat]; exact h.lat
  case rdata => rw [hc.rdata, State.edge_rdata, ha]; split <;> exact h.rdata
  case presence => rw [hc.presence, State.edge_presence, ha]; split <;> exact h.presence
  case presValid => rw [hc.presValid, State.edge_presValid, ha]; split <;> exact h.presValid
  case slotLeft => rw [hc.slotLeft, State.edge_slotLeft, ha]; split <;> exact h.slotLeft
  case slotRight => rw [hc.slotRight, State.edge_slotRight, ha]; split <;> exact h.slotRight

/-- The last edge: the last op is accepted, or there was none (R145, R154). -/
theorem DsrAt.finish (h : DsrAt z e ops n j u) (hr : (e.hostAt n).rst = false)
    (hn : (e.segReadyAt n = true ∧ j + 1 = ops.length) ∨ ops = []) :
    ∃ v, step u = .next v ∧ DsrDone z v := by
  have hsr : u.segReady = e.segReadyAt n := by simp [State.segReady, h.env.segReadyAt]
  have hend : u.opsEnd = true := by
    unfold State.opsEnd
    rw [h.seg, hsr, h.ops_eq, h.j_eq]
    rcases hn with ⟨h1, h2⟩ | h0
    · split
      · rfl
      · simp [h1, ← h2]
    · simp [h0]
  have hcm : u.completes = true := by simp [State.completes, h.mode, hend]
  obtain ⟨v, hv, hc, hd, -⟩ := step_of_busy (by rw [State.hostPort, h.env.hostAt]; exact hr) h.busy
  have ha : u.advance = u.finishDsr.complete := by
    simp only [State.advance, h.mode, State.dsrAdvance, hend, if_true]
  refine ⟨v, hv, ?_⟩
  constructor
  case busy =>
    rw [State.busy_congr (s := u.finishDsr.complete) (by rw [hc.seq, State.edge_seq, ha])]
    rfl
  case done => exact hd hcm
  case seg => rw [hc.seg, State.edge_seg, ha]; rfl
  case rdata => rw [hc.rdata, State.edge_rdata, ha]; simpa using h.rdata
  case presence => rw [hc.presence, State.edge_presence, ha]; simpa using h.presence
  case presValid => rw [hc.presValid, State.edge_presValid, ha]; simpa using h.presValid
  case slots =>
    exact ⟨u, h.lat, h.slotLeft, h.slotRight, by rw [hc.slotLeft, State.edge_slotLeft, ha]; rfl,
      by rw [hc.slotRight, State.edge_slotRight, ha]; rfl⟩

theorem Env.readyCount_succ (e : Env) (n : Nat) :
    e.readyCount (n + 1) = e.readyCount n + if e.segReadyAt n then 1 else 0 := by
  unfold Env.readyCount
  rw [List.range_succ, List.filter_append, List.length_append]
  congr 1
  by_cases h : e.segReadyAt n = true <;> simp [h]

theorem Env.readyCount_mono (e : Env) {m n : Nat} (h : m ≤ n) : e.readyCount m ≤ e.readyCount n := by
  induction n with
  | zero => rw [Nat.le_zero.1 h]
  | succ n ih =>
    by_cases hm : m = n + 1
    · rw [hm]
    · exact Nat.le_trans (ih (by omega)) (by rw [Env.readyCount_succ]; omega)

/-- While fewer ops than there are have been accepted, the command runs and the next op is on offer (R145). -/
theorem DsrAt.runOps (h : DsrAt z e ops 0 0 u) (m : Nat) (hm : e.readyCount m < ops.length)
    (hr : ∀ i < m, (e.hostAt i).rst = false) :
    ∃ v, run m u = .next v ∧ DsrAt z e ops m (e.readyCount m) v ∧
      acceptedOps m u = (ops.take (e.readyCount m)).map (SegOp.present z.params) := by
  induction m with
  | zero => exact ⟨u, rfl, h, rfl⟩
  | succ m ih =>
    have hle := e.readyCount_mono (show m ≤ m + 1 by omega)
    obtain ⟨v, hv, hat, hacc⟩ := ih (by omega) (fun i hi => hr i (by omega))
    have hs := e.readyCount_succ m
    obtain ⟨w, hw, hat'⟩ := hat.tick (hr m (by omega)) (by omega) (fun hb => by rw [hb] at hs; simp at hs; omega)
    refine ⟨w, by rw [run_add hv, run_succ_of_step hw, run_zero], ?_, ?_⟩
    · by_cases hb : e.segReadyAt m = true
      · simp only [hb, if_true] at hs hat'; rw [hs]; exact hat'
      · simp only [hb, Bool.false_eq_true, if_false, Nat.add_zero] at hs hat'; rw [hs]; exact hat'
    · rw [acceptedOps_add hv, hacc, acceptedOps_succ_of_step hw, hat.accepted]
      by_cases hb : e.segReadyAt m = true
      · simp only [hb, if_true] at hs ⊢
        rw [hs, List.take_add_one, List.getElem?_eq_getElem (show e.readyCount m < ops.length by omega), List.map_append]
        rfl
      · simp only [hb, Bool.false_eq_true, if_false, Nat.add_zero] at hs ⊢
        rw [hs]; simp [acceptedOps]

/-- At the edge that accepts the last op, or the first edge of a command without ops, the command completes (R154). -/
theorem DsrAt.runAll (h : DsrAt z e ops 0 0 u) (m : Nat)
    (hm : (e.readyCount m < ops.length ∧ e.readyCount (m + 1) = ops.length) ∨ (ops = [] ∧ m = 0))
    (hr : ∀ i < m + 1, (e.hostAt i).rst = false) :
    ∃ v, run (m + 1) u = .next v ∧ DsrDone z v ∧
      acceptedOps (m + 1) u = ops.map (SegOp.present z.params) := by
  rcases hm with ⟨h1, h2⟩ | ⟨h0, rfl⟩
  · obtain ⟨v, hv, hat, hacc⟩ := h.runOps m h1 (fun i hi => hr i (by omega))
    have hs := e.readyCount_succ m
    have hb : e.segReadyAt m = true := by
      by_contra hb; simp only [hb, if_false] at hs; omega
    simp only [hb, if_true] at hs
    obtain ⟨w, hw, hd⟩ := hat.finish (hr m (by omega)) (.inl ⟨hb, by omega⟩)
    refine ⟨w, by rw [run_add hv, run_succ_of_step hw, run_zero], hd, ?_⟩
    rw [acceptedOps_add hv, hacc, acceptedOps_succ_of_step hw, hat.accepted]
    simp only [hb, if_true, acceptedOps, List.append_nil]
    rw [List.getElem?_eq_getElem h1]
    simp only [Option.map_some, Option.toList_some]
    rw [← List.map_singleton, ← List.map_append, List.take_append_getElem, show e.readyCount m + 1 = ops.length by omega,
      List.take_length]
  · obtain ⟨w, hw, hd⟩ := h.finish (hr 0 (by omega)) (.inr h0)
    refine ⟨w, by rw [run_succ_of_step hw, run_zero], hd, ?_⟩
    rw [acceptedOps_succ_of_step hw, h.accepted]
    simp [h0, acceptedOps]

/-- A just accepted DSR command offers op 0 (R146 to R148). -/
theorem acceptDsr_at {s : State} (op : BitVec 4) (arg : BitVec 8) (slot : Slot) (ops : List SegOp) :
    DsrAt (s.acceptDsr op arg slot ops) s.env ops 0 0 (s.acceptDsr op arg slot ops) := by
  constructor <;> first | rfl | exact EnvAt.zero _

/-- The slots `finishDsr` leaves, told by `lat_op` (R146 to R148). -/
theorem State.finishDsr_render {s : State} {new : Bitmap} (hop : s.lat.op = 0x8#4 ∨ s.lat.op = 0x9#4)
    (hrom : rom (argDigit s.lat.arg) = some new) : s.finishDsr = s.setSlot s.lat.slot new := by
  unfold State.finishDsr
  rcases hop with h | h <;> simp [h, State.finishDsrRenderFirst, State.finishDsrRender, hrom]

theorem State.finishDsr_invalidate {s : State} (hop : s.lat.op = 0xA#4) :
    s.finishDsr = (s.setSlot .left 0#7).setSlot .right 0#7 := by
  unfold State.finishDsr
  simp [hop, State.finishDsrInvalidate]

theorem argDigit_digitArg (d : BitVec 4) : argDigit (digitArg d) = d := by
  revert d; decide

end Sys2Proof.Machine
end

