-- ==== Sys2Proof/Laws/OneWire.lean ====
section
/-! SUPPORT. The OW unit: the edges of a phase, and a whole waveform run to its completion whatever the host does (40_onewire.md R103, R117). -/

namespace Sys2Proof.Machine

/-- The effect of a tag on `rshift` and `pres_tmp`, with the sampled level (R103). -/
def captureTag (tag : Tag) (level : Bool) (a : Half × Bool) : Half × Bool :=
  match tag with
  | .none => a
  | .presence => (a.1, !level)
  | .bit i => (setBit a.1 i level, a.2)

/-- `rshift` and `pres_tmp` after the phases `rest`, of which the first starts `n` edges after the inputs `e` (R103, R104). -/
def captureFold (p : Params) (e : Env) : Nat → List Phase → Half × Bool → Half × Bool
  | _, [], a => a
  | n, ph :: rest, a =>
    captureFold p e (n + ph.us * p.ticksPerUs) rest
      (captureTag ph.tag (e.owInAt (n + ph.us * p.ticksPerUs - p.syncStages)) a)

/-- Every sample of the phases `rest` comes late enough to read a level of the run (R7, R104). -/
def Sampleable (p : Params) : Nat → List Phase → Prop
  | _, [] => True
  | n, ph :: rest =>
    (ph.tag ≠ .none → p.syncStages + 1 ≤ n + ph.us * p.ticksPerUs) ∧ Sampleable p (n + ph.us * p.ticksPerUs) rest

/-- The block `n` edges after inputs `e` in OW_RUN with `j` ticks of phase `k` passed. The fields after `wave` are those of
`z`, which the run does not touch. -/
structure OwAt (z : State) (e : Env) (wave : List Phase) (n k j : Nat) (a : Half × Bool) (u : State) : Prop where
  mode : u.seq.mode = .owRun
  wave_eq : u.seq.wave = wave
  k_eq : u.seq.k = k
  phase : ∃ ph, wave[k]? = some ph ∧ u.seq.t + j = ph.us * z.params.ticksPerUs ∧ 1 ≤ u.seq.t ∧ u.owDriveLow = ph.drive
  rshift : u.seq.rshift = a.1
  presTmp : u.seq.presTmp = a.2
  params : u.params = z.params
  lat : u.lat = z.lat
  rdata : u.rdata = z.rdata
  presence : u.presence = z.presence
  presValid : u.presValid = z.presValid
  slotLeft : u.slotLeft = z.slotLeft
  slotRight : u.slotRight = z.slotRight
  env : EnvAt e n u.env
  sync : SyncAt e n z.params.syncStages u.sync

/-- The block after an OW command that left `a` in `rshift` and `pres_tmp` has completed (R117). -/
structure OwDone (z : State) (a : Half × Bool) (u : State) : Prop where
  busy : u.busy = false
  done : u.done = true
  owDriveLow : u.owDriveLow = false
  rshift : u.seq.rshift = a.1
  presTmp : u.seq.presTmp = a.2
  rdata : u.rdata = if z.lat.op = 0x3#4 ∨ z.lat.op = 0x4#4 then a.1 else z.rdata
  presence : u.presence = if z.lat.op = 0x1#4 ∨ z.lat.op = 0x4#4 then a.2 else z.presence
  presValid : u.presValid = if z.lat.op = 0x1#4 ∨ z.lat.op = 0x4#4 then true else z.presValid
  slotLeft : u.slotLeft = z.slotLeft
  slotRight : u.slotRight = z.slotRight

variable {z u : State} {e : Env} {wave : List Phase} {n k j : Nat} {a : Half × Bool}

theorem OwAt.busy (h : OwAt z e wave n k j a u) : u.busy = true := by
  rw [State.busy_eq_true_iff]; exact .inl h.mode

/-- A tick inside a phase. -/
theorem OwAt.tick (h : OwAt z e wave n k j a u) (ht : 1 < u.seq.t) (hr : (e.hostAt n).rst = false) :
    ∃ v, step u = .next v ∧ OwAt z e wave (n + 1) k (j + 1) a v := by
  obtain ⟨v, hv, hc, -⟩ := step_of_busy (by rw [State.hostPort, h.env.hostAt]; exact hr) h.busy
  have hp : u.phaseEnds = false := by simp [State.phaseEnds]; omega
  have ha : u.advance = { u with seq := { u.seq with t := u.seq.t - 1 } } := by
    simp only [State.advance, h.mode, State.owAdvance, hp, Bool.false_eq_true, if_false]
  obtain ⟨ph, h1, h2, h3, h4⟩ := h.phase
  refine ⟨v, hv, ?_⟩
  constructor
  case phase => exact ⟨ph, h1, by rw [hc.seq, State.edge_seq, ha]; dsimp only; omega,
    by rw [hc.seq, State.edge_seq, ha]; dsimp only; omega, by rw [hc.owDriveLow, State.edge_owDriveLow, ha]; exact h4⟩
  case env => rw [hc.env, State.edge_env]; exact h.env.advance
  case sync =>
    rw [hc.sync, State.edge_sync, ← h.params]
    exact SyncAt.next h.env (by rw [h.params]; exact h.sync)
  all_goals first
    | (rw [hc.seq, State.edge_seq, ha]; first | exact h.mode | exact h.wave_eq | exact h.k_eq | exact h.rshift | exact h.presTmp)
    | (rw [hc.params, State.edge_params]; exact h.params)
    | (rw [hc.lat, State.edge_lat]; exact h.lat)
    | (rw [hc.rdata, State.edge_rdata, ha]; exact h.rdata)
    | (rw [hc.presence, State.edge_presence, ha]; exact h.presence)
    | (rw [hc.presValid, State.edge_presValid, ha]; exact h.presValid)
    | (rw [hc.slotLeft, State.edge_slotLeft, ha]; exact h.slotLeft)
    | (rw [hc.slotRight, State.edge_slotRight, ha]; exact h.slotRight)

/-- `i` ticks inside a phase, while ticks of it are left. -/
theorem OwAt.ticks (h : OwAt z e wave n k j a u) (i : Nat) (hi : i < u.seq.t)
    (hr : ∀ m < i, (e.hostAt (n + m)).rst = false) :
    ∃ v, run i u = .next v ∧ OwAt z e wave (n + i) k (j + i) a v := by
  induction i generalizing u n j with
  | zero => exact ⟨u, rfl, h⟩
  | succ i ih =>
    obtain ⟨v, hv, h'⟩ := h.tick (by omega) (hr 0 (by omega))
    obtain ⟨p1, q1, q2, -⟩ := h.phase
    obtain ⟨p2, r1, r2, -⟩ := h'.phase
    have hpp : p1 = p2 := by rw [q1] at r1; injection r1
    subst hpp
    obtain ⟨w, hw, h''⟩ := ih h' (by omega) (fun m hm => by
      have := hr (m + 1) (by omega); rwa [show n + (m + 1) = n + 1 + m by omega] at this)
    exact ⟨w, by rw [run_succ_of_step hv]; exact hw, by
      rw [show n + (i + 1) = n + 1 + i by omega, show j + (i + 1) = j + 1 + i by omega]; exact h''⟩

/-- The capture at the end of a phase, as `captureTag` says it. -/
theorem State.capture_seq (tag : Tag) (s : State) :
    (s.capture tag).seq = { s.seq with
      rshift := (captureTag tag s.sample (s.seq.rshift, s.seq.presTmp)).1
      presTmp := (captureTag tag s.sample (s.seq.rshift, s.seq.presTmp)).2 } := by
  cases tag <;> rfl

theorem captureTag_congr {tag : Tag} {l l' : Bool} (h : tag ≠ .none → l = l') (a : Half × Bool) :
    captureTag tag l a = captureTag tag l' a := by
  cases tag with
  | none => rfl
  | presence => rw [h (by simp)]
  | bit i => rw [h (by simp)]

/-- The sample at the end edge of a phase. -/
theorem OwAt.sample_eq (h : OwAt z e wave n k j a u)
    (hS : 1 ≤ z.params.syncStages) (hs : z.params.syncStages ≤ n) : u.sample = e.owInAt (n + 1 - z.params.syncStages) := by
  have hu := h.sync
  rw [← h.params] at hu hS hs ⊢
  exact hu.sample hS hs

/-- The last tick of a phase that is not the last: its capture is made and the next phase starts (R103). -/
theorem OwAt.nextPhase {ph ph' : Phase} (h : OwAt z e wave n k j a u) (hp : wave[k]? = some ph)
    (hp' : wave[k + 1]? = some ph') (hpos : 1 ≤ ph'.us * z.params.ticksPerUs) (ht : u.seq.t = 1)
    (hr : (e.hostAt n).rst = false) (hS : 1 ≤ z.params.syncStages)
    (hs : ph.tag ≠ .none → z.params.syncStages ≤ n) :
    ∃ v, step u = .next v ∧
      OwAt z e wave (n + 1) (k + 1) 0 (captureTag ph.tag (e.owInAt (n + 1 - z.params.syncStages)) a) v := by
  obtain ⟨v, hv, hc, -⟩ := step_of_busy (by rw [State.hostPort, h.env.hostAt]; exact hr) h.busy
  have hlen : k + 1 < wave.length := (List.getElem?_eq_some_iff.1 hp').1
  have he : u.phaseEnds = true := by simp [State.phaseEnds, ht]
  have hl : u.lastPhase = false := by simp [State.lastPhase, h.wave_eq, h.k_eq]; omega
  have htag : u.currentTag = ph.tag := by simp [State.currentTag, h.wave_eq, h.k_eq, hp]
  have ha : u.advance = (u.capture ph.tag).enterPhase (k + 1) := by
    simp only [State.advance, h.mode, State.owAdvance, he, hl, htag, h.k_eq, if_true, Bool.false_eq_true, if_false]
  have hcap : captureTag ph.tag u.sample (u.seq.rshift, u.seq.presTmp) =
      captureTag ph.tag (e.owInAt (n + 1 - z.params.syncStages)) a := by
    rw [h.rshift, h.presTmp]
    exact captureTag_congr (fun htn => h.sample_eq hS (hs htn)) a
  have hw : (u.capture ph.tag).seq.wave[k + 1]? = some ph' := by rw [State.capture_seq]; dsimp only; rw [h.wave_eq, hp']
  have hb : (u.capture ph.tag).enterPhase (k + 1) =
      { u.capture ph.tag with
        seq := { (u.capture ph.tag).seq with k := k + 1, t := ph'.us * (u.capture ph.tag).params.ticksPerUs }
        owDriveLow := ph'.drive } := by
    unfold State.enterPhase; rw [hw]
  rw [hb] at ha
  have hq : v.seq = { u.seq with
      rshift := (captureTag ph.tag (e.owInAt (n + 1 - z.params.syncStages)) a).1
      presTmp := (captureTag ph.tag (e.owInAt (n + 1 - z.params.syncStages)) a).2
      k := k + 1
      t := ph'.us * z.params.ticksPerUs } := by
    rw [hc.seq, State.edge_seq, ha]; dsimp only
    rw [State.capture_seq, hcap, State.capture_params, h.params]
  refine ⟨v, hv, ?_⟩
  constructor
  case phase => exact ⟨ph', hp', by rw [hq]; rfl, by rw [hq]; exact hpos,
    by rw [hc.owDriveLow, State.edge_owDriveLow, ha]⟩
  case env => rw [hc.env, State.edge_env]; exact h.env.advance
  case sync =>
    rw [hc.sync, State.edge_sync, ← h.params]
    exact SyncAt.next h.env (by rw [h.params]; exact h.sync)
  all_goals first
    | (rw [hq]; first | exact h.mode | exact h.wave_eq)
    | (rw [hq])
    | (rw [hc.params, State.edge_params]; exact h.params)
    | (rw [hc.lat, State.edge_lat]; exact h.lat)
    | (rw [hc.rdata, State.edge_rdata, ha]; dsimp only; rw [State.capture_rdata]; exact h.rdata)
    | (rw [hc.presence, State.edge_presence, ha]; dsimp only; rw [State.capture_presence]; exact h.presence)
    | (rw [hc.presValid, State.edge_presValid, ha]; dsimp only; rw [State.capture_presValid]; exact h.presValid)
    | (rw [hc.slotLeft, State.edge_slotLeft, ha]; dsimp only; rw [State.capture_slotLeft]; exact h.slotLeft)
    | (rw [hc.slotRight, State.edge_slotRight, ha]; dsimp only; rw [State.capture_slotRight]; exact h.slotRight)

/-- The results `finishOw` writes, told by `lat_op` (R113 to R116). -/
theorem State.finishOw_results (s : State) :
    s.finishOw.rdata = (if s.lat.op = 0x3#4 ∨ s.lat.op = 0x4#4 then s.seq.rshift else s.rdata) ∧
    s.finishOw.presence = (if s.lat.op = 0x1#4 ∨ s.lat.op = 0x4#4 then s.seq.presTmp else s.presence) ∧
    s.finishOw.presValid = (if s.lat.op = 0x1#4 ∨ s.lat.op = 0x4#4 then true else s.presValid) := by
  have hop : ∀ b : BitVec 4, (s.lat.op = b ↔ s.lat.op.toNat = b.toNat) := fun b => BitVec.toNat_inj.symm
  simp only [hop]
  unfold State.finishOw
  split <;> simp_all [State.finishOwReset, State.finishOwWriteByte, State.finishOwReadWord, State.finishOwReadTemp]

/-- The last tick of the last phase: its capture is made and the command completes (R117). -/
theorem OwAt.finish {ph : Phase} (h : OwAt z e wave n k j a u) (hp : wave[k]? = some ph)
    (hlast : wave.length = k + 1) (ht : u.seq.t = 1) (hr : (e.hostAt n).rst = false) (hS : 1 ≤ z.params.syncStages)
    (hs : ph.tag ≠ .none → z.params.syncStages ≤ n) :
    ∃ v, step u = .next v ∧ OwDone z (captureTag ph.tag (e.owInAt (n + 1 - z.params.syncStages)) a) v := by
  have he : u.phaseEnds = true := by simp [State.phaseEnds, ht]
  have hl : u.lastPhase = true := by simp [State.lastPhase, h.wave_eq, h.k_eq, hlast]
  have hcm : u.completes = true := by simp [State.completes, h.mode, he, hl]
  obtain ⟨v, hv, hc, hd, -⟩ := step_of_busy (by rw [State.hostPort, h.env.hostAt]; exact hr) h.busy
  have htag : u.currentTag = ph.tag := by simp [State.currentTag, h.wave_eq, h.k_eq, hp]
  have ha : u.advance = (u.capture ph.tag).finishOw.complete := by
    simp only [State.advance, h.mode, State.owAdvance, he, hl, htag, if_true]
  have hcap : captureTag ph.tag u.sample (u.seq.rshift, u.seq.presTmp) =
      captureTag ph.tag (e.owInAt (n + 1 - z.params.syncStages)) a := by
    rw [h.rshift, h.presTmp]
    exact captureTag_congr (fun htn => h.sample_eq hS (hs htn)) a
  obtain ⟨r1, r2, r3⟩ := State.finishOw_results (u.capture ph.tag)
  simp only [State.capture_lat, State.capture_seq, hcap, State.capture_rdata, State.capture_presence,
    State.capture_presValid, h.lat, h.rdata, h.presence, h.presValid] at r1 r2 r3
  have hq : v.seq = { (u.capture ph.tag).seq with mode := .idle } := by
    rw [hc.seq, State.edge_seq, ha]
    show ({ (u.capture ph.tag).finishOw.seq with mode := Mode.idle } : Sequencer) = _
    rw [State.finishOw_seq]
  refine ⟨v, hv, ?_⟩
  constructor
  case busy => unfold State.busy; rw [hq]
  case done => exact hd hcm
  case owDriveLow => rw [hc.owDriveLow, State.edge_owDriveLow, ha]; rfl
  case rshift => rw [hq, State.capture_seq, hcap]
  case presTmp => rw [hq, State.capture_seq, hcap]
  case rdata => rw [hc.rdata, State.edge_rdata, ha, State.complete_rdata]; exact r1
  case presence => rw [hc.presence, State.edge_presence, ha, State.complete_presence]; exact r2
  case presValid => rw [hc.presValid, State.edge_presValid, ha, State.complete_presValid]; exact r3
  case slotLeft => rw [hc.slotLeft, State.edge_slotLeft, ha]; simpa using h.slotLeft
  case slotRight => rw [hc.slotRight, State.edge_slotRight, ha]; simpa using h.slotRight

/-- A whole phase that is not the last: the edge that ends it makes its capture and starts the next phase (R103). -/
theorem OwAt.runPhase {ph ph' : Phase} (h : OwAt z e wave n k 0 a u) (hp : wave[k]? = some ph)
    (hp' : wave[k + 1]? = some ph') (hpos : 1 ≤ ph'.us * z.params.ticksPerUs) (hS : 1 ≤ z.params.syncStages)
    (hs : ph.tag ≠ .none → z.params.syncStages + 1 ≤ n + ph.us * z.params.ticksPerUs)
    (hr : ∀ m < ph.us * z.params.ticksPerUs, (e.hostAt (n + m)).rst = false) :
    ∃ v, run (ph.us * z.params.ticksPerUs) u = .next v ∧
      OwAt z e wave (n + ph.us * z.params.ticksPerUs) (k + 1) 0
        (captureTag ph.tag (e.owInAt (n + ph.us * z.params.ticksPerUs - z.params.syncStages)) a) v := by
  obtain ⟨q, q1, q2, q3, -⟩ := h.phase
  obtain rfl : q = ph := by rw [hp] at q1; injection q1 with q1; exact q1.symm
  obtain ⟨w, hw, hwat⟩ := h.ticks (u.seq.t - 1) (by omega) (fun m hm => hr m (by omega))
  obtain ⟨q', r1, r2, -⟩ := hwat.phase
  obtain rfl : q' = q := by rw [hp] at r1; injection r1 with r1; exact r1.symm
  obtain ⟨v, hv, hvat⟩ := hwat.nextPhase hp hp' hpos (by omega) (hr _ (by omega)) hS
    (fun ht => by have := hs ht; omega)
  have hn : n + (u.seq.t - 1) + 1 = n + q'.us * z.params.ticksPerUs := by omega
  rw [hn] at hvat
  refine ⟨v, ?_, hvat⟩
  rw [show q'.us * z.params.ticksPerUs = (u.seq.t - 1) + 1 by omega, run_add hw, run_succ_of_step hv, run_zero]

theorem waveTicks_cons (p : Params) (ph : Phase) (rest : List Phase) :
    waveTicks p (ph :: rest) = ph.us * p.ticksPerUs + waveTicks p rest := by
  simp [waveTicks, waveUs, Nat.add_mul]

/-- From the start of phase `k` the rest of the waveform runs cycle by cycle, and the command completes at its end. -/
theorem OwAt.runWave (rest : List Phase) (hd : wave.drop k = rest) (hne : rest ≠ [])
    (h : OwAt z e wave n k 0 a u) (hpos : ∀ ph ∈ wave, 1 ≤ ph.us * z.params.ticksPerUs)
    (hS : 1 ≤ z.params.syncStages) (hsam : Sampleable z.params n rest)
    (hr : ∀ m < waveTicks z.params rest, (e.hostAt (n + m)).rst = false) :
    (∀ m, m < waveTicks z.params rest → ∃ v, run m u = .next v ∧ v.busy = true ∧
      (driveTrace z.params rest)[m]? = some v.owDriveLow ∧ ∃ k' j' a', OwAt z e wave (n + m) k' j' a' v) ∧
    ∃ v, run (waveTicks z.params rest) u = .next v ∧ OwDone z (captureFold z.params e n rest a) v := by
  induction rest generalizing u n k a with
  | nil => exact absurd rfl hne
  | cons ph rest ih =>
    have hk : k < wave.length := by
      by_contra hk
      rw [List.drop_eq_nil_of_le (by omega)] at hd
      simp at hd
    rw [List.drop_eq_getElem_cons hk] at hd
    injection hd with hph hrest
    have hp : wave[k]? = some ph := by rw [List.getElem?_eq_getElem hk, hph]
    obtain ⟨q, q1, q2, q3, q4⟩ := h.phase
    have hqp : q = ph := by rw [hp] at q1; injection q1 with q1; exact q1.symm
    subst hqp
    rw [Nat.add_zero] at q2
    have hus : 1 ≤ q.us * z.params.ticksPerUs := hpos q (List.mem_of_getElem? hp)
    obtain ⟨hs1, hs2⟩ := hsam
    rw [waveTicks_cons] at hr ⊢
    -- the last cycle of the phase
    obtain ⟨w, hw, hwat⟩ := h.ticks (u.seq.t - 1) (by omega) (fun m hm => hr m (by omega))
    obtain ⟨q', q1', q2', -⟩ := hwat.phase
    have hqq : q' = q := by rw [hp] at q1'; injection q1' with q1'; exact q1'.symm
    subst hqq
    have hwt : w.seq.t = 1 := by omega
    have hin : ∀ m, m < q'.us * z.params.ticksPerUs → ∃ v, run m u = .next v ∧ v.busy = true ∧
        (driveTrace z.params (q' :: rest))[m]? = some v.owDriveLow ∧ ∃ k' j' a', OwAt z e wave (n + m) k' j' a' v := by
      intro m hm
      obtain ⟨v, hv, hvat⟩ := h.ticks m (by omega) (fun i hi => hr i (by omega))
      obtain ⟨q2, s1, -, -, s4⟩ := hvat.phase
      have : q2 = q' := by rw [hp] at s1; injection s1 with s1; exact s1.symm
      subst this
      refine ⟨v, hv, hvat.busy, ?_, _, _, _, hvat⟩
      simp only [driveTrace, List.flatMap_cons]
      rw [List.getElem?_append_left (by simpa using hm), List.getElem?_replicate, if_pos hm, s4]
    have hlastr : (e.hostAt (n + (u.seq.t - 1))).rst = false := hr _ (by omega)
    have hstage : q'.tag ≠ .none → z.params.syncStages ≤ n + (u.seq.t - 1) := fun ht => by
      have := hs1 ht; omega
    have hidx : n + (u.seq.t - 1) + 1 - z.params.syncStages = n + q'.us * z.params.ticksPerUs - z.params.syncStages := by omega
    have hrun : ∀ v, step w = .next v → run (q'.us * z.params.ticksPerUs) u = .next v := by
      intro v hv
      rw [show q'.us * z.params.ticksPerUs = (u.seq.t - 1) + 1 by omega, run_add hw, run_succ_of_step hv, run_zero]
    cases hrc : rest with
    | nil =>
      subst hrc
      have hlen : wave.length = k + 1 := by
        have := congrArg List.length hrest
        simp at this; omega
      obtain ⟨v, hv, hdone⟩ := hwat.finish hp hlen hwt hlastr hS hstage
      have hz : waveTicks z.params [] = 0 := by simp [waveTicks, waveUs]
      rw [hz, Nat.add_zero]
      exact ⟨hin, v, hrun v hv, by rw [hidx] at hdone; exact hdone⟩
    | cons ph' rest' =>
      have hp' : wave[k + 1]? = some ph' := by
        have := congrArg (fun l => l[0]?) hrest
        simpa [hrc] using this
      obtain ⟨v, hrv, hvat⟩ := h.runPhase hp hp' (hpos _ (List.mem_of_getElem? hp')) hS hs1 (fun m hm => hr m (by omega))
      obtain ⟨ihm, w', hw', hdone⟩ := ih hrest (by simp [hrc]) hvat hs2 (fun m hm => by
        have := hr (q'.us * z.params.ticksPerUs + m) (by omega)
        rwa [show n + (q'.us * z.params.ticksPerUs + m) = n + q'.us * z.params.ticksPerUs + m by omega] at this)
      rw [← hrc]
      refine ⟨fun m hm => ?_, w', by rw [run_add hrv]; exact hw', hdone⟩
      by_cases hlt : m < q'.us * z.params.ticksPerUs
      · exact hin m hlt
      · obtain ⟨x, hx, hb, hdx, k', j', a', hat⟩ := ihm (m - q'.us * z.params.ticksPerUs) (by omega)
        have hxu : run m u = .next x := by
          rw [show m = q'.us * z.params.ticksPerUs + (m - q'.us * z.params.ticksPerUs) by omega, run_add hrv]; exact hx
        refine ⟨x, hxu, hb, ?_, k', j', a', ?_⟩
        · simp only [driveTrace, List.flatMap_cons] at hdx ⊢
          rw [List.getElem?_append_right (by simpa using hlt)]
          simpa using hdx
        · rwa [show n + q'.us * z.params.ticksPerUs + (m - q'.us * z.params.ticksPerUs) = n + m by omega] at hat

/-- A just accepted OW command stands at the start of phase 0 (R113 to R116). -/
theorem acceptOw_at {s : State} (op : BitVec 4) (arg : BitVec 8) {ph : Phase} {rest : List Phase}
    (hpos : 1 ≤ ph.us * s.params.ticksPerUs) :
    OwAt (s.acceptOw op arg (ph :: rest)) s.env (ph :: rest) 0 0 0 (s.seq.rshift, s.seq.presTmp)
      (s.acceptOw op arg (ph :: rest)) := by
  have h : s.acceptOw op arg (ph :: rest) =
      { s.latch op arg .left with
        seq := { s.seq with mode := .owRun, wave := ph :: rest, k := 0, t := ph.us * s.params.ticksPerUs }
        owDriveLow := ph.drive } := rfl
  rw [h]
  constructor <;> first | rfl | exact EnvAt.zero _ | exact SyncAt.zero _ _ _ | exact ⟨ph, rfl, rfl, hpos, rfl⟩

end Sys2Proof.Machine
end

