-- ==== Sys2Proof/Laws/Waves.lean ====
section
/-! SUPPORT. The waveforms of the OW commands (40_onewire.md R105 to R112): every duration in them is a parameter, every sample in
them reads the run's own levels, and what a run of each leaves in `rshift` and `pres_tmp`. -/

namespace Sys2Proof.Machine

/-! ### Durations -/

theorem waveUs_append (a b : List Phase) : waveUs (a ++ b) = waveUs a + waveUs b := by simp [waveUs]

theorem waveTicks_append (p : Params) (a b : List Phase) : waveTicks p (a ++ b) = waveTicks p a + waveTicks p b := by
  simp [waveTicks, waveUs, Nat.add_mul]

theorem waveUs_flatMap {α : Type} (l : List α) (f : α → List Phase) :
    waveUs (l.flatMap f) = (l.map fun i => waveUs (f i)).sum := by
  induction l with
  | nil => rfl
  | cons x l ih => rw [List.flatMap_cons, waveUs_append, ih, List.map_cons, List.sum_cons]

theorem writeBitWave_us (p : Params) (b : Bool) :
    waveUs (writeBitWave p b) = if b then p.tW1Low + p.tW1Rel else p.tW0Low + p.tW0Rel := by
  cases b <;> simp [writeBitWave, waveUs]

theorem resetWave_us (p : Params) : waveUs (resetWave p) = p.tRstLow + p.tRstWait := by simp [resetWave, waveUs]

theorem readBitWave_us (p : Params) (i : Fin 16) : waveUs (readBitWave p i) = p.tRLow + p.tRSample + p.tRIdle := by
  simp [readBitWave, waveUs, Nat.add_assoc]

/-- Every phase of the waveforms has a duration parameter for its length. -/
theorem duration_mem {p : Params} {ph : Phase} : (ph ∈ resetWave p ∨ (∃ b, ph ∈ writeByteWave p b) ∨ ph ∈ readWordWave p ∨ ph ∈ readTempWave p) → ph.us ∈ p.durations := by
  have hr : ph ∈ resetWave p → ph.us ∈ p.durations := by
    intro h; simp [resetWave] at h; rcases h with rfl | rfl <;> simp [Params.durations]
  have hwb : ∀ b, ph ∈ writeByteWave p b → ph.us ∈ p.durations := by
    intro b h
    simp only [writeByteWave, List.mem_flatMap] at h
    obtain ⟨i, -, h⟩ := h
    unfold writeBitWave at h
    split at h <;> simp at h <;> rcases h with rfl | rfl <;> simp [Params.durations]
  have hw : ph ∈ readWordWave p → ph.us ∈ p.durations := by
    intro h
    simp only [readWordWave, List.mem_flatMap] at h
    obtain ⟨i, -, h⟩ := h
    simp [readBitWave] at h
    rcases h with rfl | rfl | rfl <;> simp [Params.durations]
  rintro (h | ⟨b, h⟩ | h | h)
  · exact hr h
  · exact hwb b h
  · exact hw h
  · simp only [readTempWave, List.mem_append] at h
    rcases h with ((((((h | h) | h) | h) | h) | h) | h) | h
    · exact hr h
    · exact hwb _ h
    · exact hwb _ h
    · simp [convWave] at h; subst h; simp [Params.durations]
    · exact hr h
    · exact hwb _ h
    · exact hwb _ h
    · exact hw h

/-- Every phase of the waveform of an OW command has a duration parameter for its length. -/
theorem owWave_mem {p : Params} {i : Instr} {wave} (h : owWave p i = some wave) : ∀ ph ∈ wave, ph.us ∈ p.durations := by
  intro ph hp
  apply duration_mem
  cases i <;> simp [owWave] at h <;> subst h
  · exact .inl hp
  · exact .inr (.inl ⟨_, hp⟩)
  · exact .inr (.inr (.inl hp))
  · exact .inr (.inr (.inr hp))

/-! ### Samples -/

theorem sampleable_append {p : Params} (a b : List Phase) (n : Nat) : Sampleable p n (a ++ b) ↔ Sampleable p n a ∧ Sampleable p (n + waveTicks p a) b := by
  induction a generalizing n with
  | nil => simp [Sampleable, waveTicks, waveUs]
  | cons ph a ih => simp only [List.cons_append, Sampleable, ih, waveTicks_cons, and_assoc, Nat.add_assoc]

theorem captureFold_append {p : Params} {e} (a b : List Phase) (n : Nat) (x) : captureFold p e n (a ++ b) x = captureFold p e (n + waveTicks p a) b (captureFold p e n a x) := by
  induction a generalizing n x with
  | nil => simp [captureFold, waveTicks, waveUs]
  | cons ph a ih => simp only [List.cons_append, captureFold, ih, waveTicks_cons, Nat.add_assoc]

/-- From its acceptance a waveform comes to the start of each of its phases (R103). -/
theorem OwAt.reachPhase {z u : State} {e : Env} {wave : List Phase} {n : Nat} {a : Half × Bool} (h : OwAt z e wave n 0 0 a u)
    (hpos : ∀ ph ∈ wave, 1 ≤ ph.us * z.params.ticksPerUs) (hS : 1 ≤ z.params.syncStages) (hsam : Sampleable z.params n wave)
    (k : Nat) (hk : k < wave.length) (hr : ∀ m < waveTicks z.params (wave.take k), (e.hostAt (n + m)).rst = false) :
    ∃ a' v, run (waveTicks z.params (wave.take k)) u = .next v ∧
      OwAt z e wave (n + waveTicks z.params (wave.take k)) k 0 a' v := by
  induction k with
  | zero => exact ⟨a, u, by simp [waveTicks, waveUs], by simpa [waveTicks, waveUs] using h⟩
  | succ k ih =>
    have ht : waveTicks z.params (wave.take (k + 1)) =
        waveTicks z.params (wave.take k) + wave[k].us * z.params.ticksPerUs := by
      rw [← List.take_append_getElem (by omega), waveTicks_append, waveTicks_cons]
      simp [waveTicks, waveUs]
    rw [ht] at hr ⊢
    obtain ⟨a', v, hv, hat⟩ := ih (by omega) (fun m hm => hr m (by omega))
    rw [← List.take_append_drop k wave, sampleable_append, List.drop_eq_getElem_cons (by omega)] at hsam
    obtain ⟨w, hw, hat'⟩ := hat.runPhase (List.getElem?_eq_getElem (by omega)) (List.getElem?_eq_getElem hk)
      (hpos _ (List.getElem_mem hk)) hS hsam.2.1 (fun m hm => by rw [Nat.add_assoc]; exact hr _ (by omega))
    exact ⟨_, w, by rw [run_add hv]; exact hw, by rw [← Nat.add_assoc]; exact hat'⟩

theorem writeByte_untagged (p : Params) (b : BitVec 8) : ∀ ph ∈ writeByteWave p b, ph.tag = .none := by
  intro ph h
  simp only [writeByteWave, List.mem_flatMap] at h
  obtain ⟨i, -, h⟩ := h
  unfold writeBitWave at h
  split at h <;> simp at h <;> rcases h with rfl | rfl <;> rfl

/-- A phase with a capture is released and at least SYNC_STAGES cycles long (R7, R105, R109). -/
theorem owWave_tagged {p : Params} (hp : p.Ok) {i : Instr} {wave : List Phase} (h : owWave p i = some wave) :
    ∀ ph ∈ wave, ph.tag ≠ .none → ph.drive = false ∧ p.syncStages ≤ ph.us * p.ticksPerUs := by
  obtain ⟨-, -, -, -, -, hs, hw, -⟩ := hp
  have hreset : ∀ ph ∈ resetWave p, ph.tag ≠ .none → ph.drive = false ∧ p.syncStages ≤ ph.us * p.ticksPerUs := by
    intro ph h; simp [resetWave] at h; rcases h with rfl | rfl <;> simp [hw]
  have hword : ∀ ph ∈ readWordWave p, ph.tag ≠ .none → ph.drive = false ∧ p.syncStages ≤ ph.us * p.ticksPerUs := by
    intro ph h
    simp only [readWordWave, List.mem_flatMap] at h
    obtain ⟨i, -, h⟩ := h
    simp [readBitWave] at h
    rcases h with rfl | rfl | rfl <;> simp [hs]
  have hbyte := writeByte_untagged p
  intro ph hm ht
  cases i <;> simp [owWave] at h <;> subst h
  · exact hreset ph hm ht
  · exact absurd (hbyte _ ph hm) ht
  · exact hword ph hm ht
  · simp only [readTempWave, List.mem_append] at hm
    rcases hm with ((((((hm | hm) | hm) | hm) | hm) | hm) | hm) | hm
    · exact hreset ph hm ht
    · exact absurd (hbyte _ ph hm) ht
    · exact absurd (hbyte _ ph hm) ht
    · simp [convWave] at hm; subst hm; simp at ht
    · exact hreset ph hm ht
    · exact absurd (hbyte _ ph hm) ht
    · exact absurd (hbyte _ ph hm) ht
    · exact hword ph hm ht

/-- A waveform that samples nothing captures nothing. -/
theorem untagged_fold {p : Params} {e} (a : List Phase) (h : ∀ ph ∈ a, ph.tag = .none) (n : Nat) (x) : Sampleable p n a ∧ captureFold p e n a x = x := by
  induction a generalizing n x with
  | nil => simp [Sampleable, captureFold]
  | cons ph a ih =>
    have h1 := h ph (by simp)
    have := ih (fun q hq => h q (by simp [hq])) (n + ph.us * p.ticksPerUs) x
    simp [Sampleable, captureFold, h1, this, captureTag]

/-- A reset waveform leaves the inverted sample of its end in `pres_tmp` (R105, R106). -/
theorem resetWave_fold {p : Params} (hp : p.Ok) {e} (n) (x) : Sampleable p n (resetWave p) ∧ captureFold p e n (resetWave p) x = (x.1, !e.owInAt (n + waveTicks p (resetWave p) - p.syncStages)) := by
  obtain ⟨hd, h480, -, hU, hS, -, hW, -⟩ := hp
  have : 1 ≤ p.tRstLow * p.ticksPerUs := Nat.mul_pos (by omega) hU
  refine ⟨⟨by simp, ?_, trivial⟩, ?_⟩
  · intro _; dsimp only; omega
  · simp only [resetWave, captureFold, captureTag, waveTicks, waveUs, List.map, List.sum_cons, List.sum_nil, Nat.add_mul, Nat.add_zero,
      Nat.add_assoc]

/-- `rshift[i] <- b` sets bit `i` and no other. -/
theorem setBit_getLsbD (v : Half) (i : Fin 16) (b : Bool) (m : Nat) (hm : m < 16) : (setBit v i b).getLsbD m = if m = i.val then b else v.getLsbD m := by
  unfold setBit
  have hi := i.isLt
  simp only [BitVec.getLsbD_or, BitVec.getLsbD_and, BitVec.getLsbD_not, BitVec.getLsbD_shiftLeft, BitVec.getLsbD_setWidth, hm, decide_true, Bool.true_and]
  by_cases h : m = i.val
  · subst h; cases b <;> simp
  · rcases Nat.lt_or_gt_of_ne h with h' | h'
    · simp [h, h']
    · have : ¬ m < i.val := by omega
      have h2 : m - i.val ≠ 0 := by omega
      cases b <;> simp [h, this, h2, BitVec.getLsbD_one, -BitVec.getLsbD_eq_getElem]

/-- A read slot leaves its sample in its bit of `rshift` (R109). -/
theorem readBitWave_fold {p : Params} (hp : p.Ok) {e} (n i) (x) : Sampleable p n (readBitWave p i) ∧ 
   captureFold p e n (readBitWave p i) x = (setBit x.1 i (e.owInAt (n + (p.tRLow + p.tRSample) * p.ticksPerUs - p.syncStages)), x.2) := by
  obtain ⟨hd, h480, -, hU, hS, hW, -, -⟩ := hp
  have : 1 ≤ p.tRLow * p.ticksPerUs := Nat.mul_pos (hd _ (by simp [Params.durations])) hU
  refine ⟨⟨by simp, ?_, by simp, trivial⟩, ?_⟩
  · intro _; dsimp only; omega
  · simp only [readBitWave, captureFold, captureTag, Nat.add_mul, Nat.add_assoc]

/-- Read slots in a row fill their bits and leave the others. -/
theorem readBits_fold {p : Params} (hp : p.Ok) {e} (l : List (Fin 16)) (n) (x) : Sampleable p n (l.flatMap (readBitWave p)) ∧
   (captureFold p e n (l.flatMap (readBitWave p)) x).2 = x.2 ∧ 
   (l.Nodup → ∀ (j : Nat) (hj : j < l.length), (captureFold p e n (l.flatMap (readBitWave p)) x).1.getLsbD (l[j]).val = 
     e.owInAt (n + (j * (p.tRLow + p.tRSample + p.tRIdle) + p.tRLow + p.tRSample) * p.ticksPerUs - p.syncStages)) ∧
   (∀ i : Fin 16, i ∉ l → (captureFold p e n (l.flatMap (readBitWave p)) x).1.getLsbD i.val = x.1.getLsbD i.val) := by
  induction l generalizing n x with
  | nil => simp [Sampleable, captureFold]
  | cons i l ih =>
    have hwt : waveTicks p (readBitWave p i) = (p.tRLow + p.tRSample + p.tRIdle) * p.ticksPerUs := by
      simp [waveTicks, waveUs, readBitWave]; left; omega
    obtain ⟨b1, b2⟩ := readBitWave_fold (e := e) hp n i x
    obtain ⟨i1, i2, i3, i4⟩ := ih (n + waveTicks p (readBitWave p i)) (captureFold p e n (readBitWave p i) x)
    simp only [List.flatMap_cons, sampleable_append, captureFold_append]
    refine ⟨⟨b1, i1⟩, by rw [i2, b2], ?_, ?_⟩
    · intro hnd j hj
      cases j with
      | zero =>
        rw [List.nodup_cons] at hnd
        rw [List.getElem_cons_zero, i4 i hnd.1, b2, setBit_getLsbD _ _ _ _ i.isLt]
        simp
      | succ j =>
        rw [List.nodup_cons] at hnd
        rw [List.getElem_cons_succ, i3 hnd.2 j (by simpa using hj), hwt]
        congr 2
        rw [Nat.add_assoc, ← Nat.add_mul]
        congr 2
        ring
    · intro q hq
      simp at hq
      rw [i4 q hq.2, b2, setBit_getLsbD _ _ _ _ q.isLt, if_neg (by intro h; exact hq.1 (Fin.ext h))]

/-- RWORD fills bit `j` with the sample of slot `j` (R110). -/
theorem readWordWave_fold {p : Params} (hp : p.Ok) {e} (n) (x) : Sampleable p n (readWordWave p) ∧
   (captureFold p e n (readWordWave p) x).2 = x.2 ∧ 
   (∀ j < 16, (captureFold p e n (readWordWave p) x).1.getLsbD j = 
     e.owInAt (n + (j * (p.tRLow + p.tRSample + p.tRIdle) + p.tRLow + p.tRSample) * p.ticksPerUs - p.syncStages)) := by
  obtain ⟨h1, h2, h3, -⟩ := readBits_fold (e := e) hp (List.finRange 16) n x
  refine ⟨h1, h2, fun j hj => ?_⟩
  have := h3 (List.nodup_finRange 16) j (by simpa using hj)
  simp only [List.getElem_finRange] at this
  exact this

/-- RTEMP leaves the sample of its second reset and the word it ends with (R112, D9). -/
theorem readTempWave_fold {p : Params} (hp : p.Ok) {e} (x) : 
   let r := 2 * (p.tRstLow + p.tRstWait) + waveUs (writeByteWave p 0xCC#8) + waveUs (writeByteWave p 0x44#8) + p.tConv
   let w := r + waveUs (writeByteWave p 0xCC#8) + waveUs (writeByteWave p 0xBE#8)
   Sampleable p 0 (readTempWave p) ∧
   (captureFold p e 0 (readTempWave p) x).2 = !e.owInAt (r * p.ticksPerUs - p.syncStages) ∧ 
   (∀ j < 16, (captureFold p e 0 (readTempWave p) x).1.getLsbD j = 
     e.owInAt ((w + j * (p.tRLow + p.tRSample + p.tRIdle) + p.tRLow + p.tRSample) * p.ticksPerUs - p.syncStages)) := by
  intro r w
  unfold readTempWave
  have hr : waveTicks p (resetWave p) = (p.tRstLow + p.tRstWait) * p.ticksPerUs := by simp [resetWave, waveTicks, waveUs]
  have hc : waveTicks p (convWave p) = p.tConv * p.ticksPerUs := by simp [convWave, waveTicks, waveUs]
  have ub := fun b n x => untagged_fold (p := p) (e := e) _ (writeByte_untagged p b) n x
  have uc : ∀ n x, Sampleable p n (convWave p) ∧ captureFold p e n (convWave p) x = x := fun n x => untagged_fold _ (by simp [convWave]) n x
  simp only [sampleable_append, captureFold_append, waveTicks_append, (ub _ _ x).1, (uc _ x).1, (ub _ _ _).2, (uc _ _).2, hr, hc]
  refine ⟨⟨⟨⟨⟨⟨⟨⟨(resetWave_fold (e := e) hp _ x).1, trivial⟩, trivial⟩, trivial⟩, (resetWave_fold (e := e) hp _ x).1⟩, trivial⟩, trivial⟩, (readWordWave_fold (e := e) hp _ x).1⟩, ?_, ?_⟩
  · rw [(readWordWave_fold hp _ _).2.1, (resetWave_fold hp _ _).2]
    have hw : waveUs (resetWave p) = p.tRstLow + p.tRstWait := by simp [resetWave, waveUs]
    simp only [r, waveTicks, skipRom, convertT, hw]
    congr 3
    ring
  · intro j hj
    rw [(readWordWave_fold hp _ _).2.2 j hj]
    simp only [r, w, waveTicks, skipRom, convertT, readScratchpad]
    congr 2
    ring

end Sys2Proof.Machine
end

