-- ==== Sys2Proof/Laws/Exec.lean ====
section
/-! SUPPORT. What exec does at an idle block, said once for the seven commands, and with it the kinds of a step; the results an
edge can write; what a run leaves of the host's registers. -/

namespace Sys2Proof.Machine

variable {s t : State} {i : Instr}

/-! ### Acceptance -/

theorem acceptOw_busy (op : BitVec 4) (arg : BitVec 8) (wave : List Phase) (s : State) : (s.acceptOw op arg wave).busy = true := by
  rw [State.busy_eq_true_iff, State.acceptOw, State.enterPhase_mode]
  exact .inl rfl

theorem acceptDsr_busy (op : BitVec 4) (arg : BitVec 8) (slot : Slot) (ops : List SegOp) (s : State) :
    (s.acceptDsr op arg slot ops).busy = true := rfl

/-- `t` is `s` after it has accepted the OW command `i`; `arg` is the byte of OW_WRITE_BYTE (R113 to R116). -/
def AcceptsOw (s : State) (i : Instr) (t : State) : Prop :=
  ∃ arg wave, owWave s.params i = some wave ∧ t = s.acceptOw i.op arg wave ∧ ∀ byte, i = .owWriteByte byte → arg = byte

/-- `t` is `s` after it has accepted the DSR command `i`; `arg` and `slot` are those of a render (R146 to R148). -/
def AcceptsDsr (s : State) (i : Instr) (t : State) : Prop :=
  ∃ arg slot ops, dsrOps s i = some ops ∧ t = s.acceptDsr i.op arg slot ops ∧
    ∀ slot' digit, i = .dsrRenderFirst slot' digit ∨ i = .dsrRender slot' digit → arg = digitArg digit ∧ slot = slot'

/-- exec at an idle block: an OW command starts, a DSR command starts, or a digit is out of range (R171, R87). -/
theorem exec_idle (hb : s.busy = false) (h : exec i s = .next t) :
    AcceptsOw s i t ∨ AcceptsDsr s i t ∨ (i.wf = false ∧ t = s.cmdError .digitRange) := by
  have hrom : ∀ digit, digitOk digit = (rom digit).isSome := by decide
  cases i with
  | owReset =>
    have := (State.offer_idle _ hb).symm.trans h; injection this with this
    exact .inl ⟨_, _, rfl, this.symm, by simp⟩
  | owWriteByte byte =>
    have := (State.offer_idle _ hb).symm.trans h; injection this with this
    exact .inl ⟨_, _, rfl, this.symm, by simp⟩
  | owReadWord =>
    have := (State.offer_idle _ hb).symm.trans h; injection this with this
    exact .inl ⟨_, _, rfl, this.symm, by simp⟩
  | owReadTemp =>
    have := (State.offer_idle _ hb).symm.trans h; injection this with this
    exact .inl ⟨_, _, rfl, this.symm, by simp⟩
  | dsrRenderFirst slot digit =>
    have := (State.offer_idle _ hb).symm.trans h; injection this with this
    cases hn : rom digit with
    | some new =>
      rw [State.acceptRenderFirst, hn] at this
      exact .inr (.inl ⟨_, _, _, by rw [dsrOps, hn]; rfl, this.symm, by simp⟩)
    | none =>
      rw [State.acceptRenderFirst, hn] at this
      exact .inr (.inr ⟨by rw [Instr.wf, hrom, hn]; rfl, this.symm⟩)
  | dsrRender slot digit =>
    have := (State.offer_idle _ hb).symm.trans h; injection this with this
    cases hn : rom digit with
    | some new =>
      rw [State.acceptRender, hn] at this
      exact .inr (.inl ⟨_, _, _, by rw [dsrOps, hn]; rfl, this.symm, by simp⟩)
    | none =>
      rw [State.acceptRender, hn] at this
      exact .inr (.inr ⟨by rw [Instr.wf, hrom, hn]; rfl, this.symm⟩)
  | dsrInvalidate =>
    have := (State.offer_idle _ hb).symm.trans h; injection this with this
    exact .inr (.inl ⟨_, _, _, rfl, this.symm, by simp⟩)

/-- What decodes is well formed (R87). -/
theorem decode_wf {w : Word} (h : decode w = .command i) : i.wf = true := by
  obtain ⟨fmt, h1, -, h3⟩ := decode_command.1 h
  obtain ⟨-, k2, -, k4⟩ := opcodeMap_some h1
  cases i with
  | dsrRenderFirst slot digit =>
    obtain ⟨rfl, rfl⟩ := k4 _ _ (.inl rfl)
    simp only [Instr.wf, digitOk, decide_eq_true_eq]
    exact h3 k2.symm
  | dsrRender slot digit =>
    obtain ⟨rfl, rfl⟩ := k4 _ _ (.inr rfl)
    simp only [Instr.wf, digitOk, decide_eq_true_eq]
    exact h3 k2.symm
  | _ => rfl

/-- The waveform an OW command starts is not empty. -/
theorem owWave_ne_nil {p : Params} {wave : List Phase} (h : owWave p i = some wave) : ∃ ph rest, wave = ph :: rest := by
  cases i with
  | owWriteByte byte =>
    simp only [owWave, Option.some.injEq] at h
    subst h
    unfold writeByteWave writeBitWave
    rw [show List.range 8 = 0 :: (List.range 8).tail from rfl, List.flatMap_cons]
    split <;> exact ⟨_, _, rfl⟩
  | _ => simp [owWave] at h <;> exact ⟨_, _, h.symm⟩

/-- exec starts every OW command at an idle block (R113 to R116). -/
theorem exec_of_owWave {wave : List Phase} (hb : s.busy = false) (hw : owWave s.params i = some wave) :
    ∃ arg, exec i s = .next (s.acceptOw i.op arg wave) := by
  cases i with
  | dsrRenderFirst _ _ => simp [owWave] at hw
  | dsrRender _ _ => simp [owWave] at hw
  | dsrInvalidate => simp [owWave] at hw
  | _ =>
    simp only [owWave, Option.some.injEq] at hw
    subst hw
    exact ⟨_, State.offer_idle _ hb⟩

/-- exec starts every DSR command that has an op list at an idle block (R146 to R148). -/
theorem exec_of_dsrOps {ops : List SegOp} (hb : s.busy = false) (ho : dsrOps s i = some ops) :
    ∃ arg slot, exec i s = .next (s.acceptDsr i.op arg slot ops) ∧
      ∀ slot' digit, i = .dsrRenderFirst slot' digit ∨ i = .dsrRender slot' digit →
        arg = digitArg digit ∧ slot = slot' ∧ (rom digit).isSome := by
  cases i with
  | dsrRenderFirst slot digit =>
    simp only [dsrOps, Option.map_eq_some_iff] at ho
    obtain ⟨new, hn, rfl⟩ := ho
    exact ⟨digitArg digit, slot, (State.offer_idle _ hb).trans (by rw [State.acceptRenderFirst, hn]; rfl), by simp [hn]⟩
  | dsrRender slot digit =>
    simp only [dsrOps, Option.map_eq_some_iff] at ho
    obtain ⟨new, hn, rfl⟩ := ho
    exact ⟨digitArg digit, slot, (State.offer_idle _ hb).trans (by rw [State.acceptRender, hn]; rfl), by simp [hn]⟩
  | dsrInvalidate =>
    simp only [dsrOps, Option.some.injEq] at ho
    subst ho
    exact ⟨_, _, State.offer_idle _ hb, by simp⟩
  | _ => simp [dsrOps] at ho

/-! ### A step -/

/-- The kinds of a step: reset, no command offered, a rejection, an OW command accepted, a DSR command accepted. -/
theorem step_kinds (h : step s = .next t) :
    (s.hostPort.rst = true ∧ t = s.resetEdge) ∨
    (s.hostPort.rst = false ∧ s.offered = none ∧ t = s.plainEdge) ∨
    (s.hostPort.rst = false ∧ ∃ w c, s.offered = some w ∧
      ((s.busy = true ∧ c = .overrun) ∨ (s.busy = false ∧ decode w = .reject c)) ∧ t = s.edge.cmdError c) ∨
    (s.hostPort.rst = false ∧ s.busy = false ∧ ∃ w i, s.offered = some w ∧ decode w = .command i ∧
      (AcceptsOw s.edge i t ∨ AcceptsDsr s.edge i t)) := by
  rcases step_cases h with h | h | ⟨hr, w, c, ho, hv, rfl⟩ | ⟨hr, w, i, ho, hb, hd, he⟩
  · exact .inl h
  · exact .inr (.inl h)
  · exact .inr (.inr (.inl ⟨hr, w, c, ho, verdict_reject hv, rfl⟩))
  · have hbe : s.edge.busy = false := by rw [State.edge_of_idle hb]; exact hb
    refine .inr (.inr (.inr ⟨hr, hb, w, i, ho, hd, ?_⟩))
    rcases exec_idle hbe he with h | h | ⟨h, -⟩
    · exact .inl h
    · exact .inr h
    · rw [decode_wf hd] at h; cases h

/-- The inputs move on by one cycle at every step. -/
theorem step_env (h : step s = .next t) : t.env = s.env.advance := by
  rcases step_kinds h with ⟨-, rfl⟩ | ⟨-, -, rfl⟩ | ⟨-, w, c, -, -, rfl⟩ |
    ⟨-, -, w, i, -, -, ⟨arg, wave, -, rfl, -⟩ | ⟨arg, slot, ops, -, rfl, -⟩⟩
  · rfl
  · exact (plainEdge_sameCore s).env
  all_goals simp

/-- The synchronizer shifts at every step without reset (10_state.md R43). -/
theorem step_sync (hr : s.hostPort.rst = false) (h : step s = .next t) : t.sync = s.syncNext ∧ t.params = s.params := by
  rcases step_kinds h with ⟨h1, -⟩ | ⟨-, -, rfl⟩ | ⟨-, w, c, -, -, rfl⟩ |
    ⟨-, -, w, i, -, -, ⟨arg, wave, -, rfl, -⟩ | ⟨arg, slot, ops, -, rfl, -⟩⟩
  · rw [hr] at h1; cases h1
  · have := plainEdge_sameCore s
    exact ⟨this.sync, by rw [this.params]; simp⟩
  all_goals simp

/-- Two states whose slot files agree. -/
theorem State.slot_congr {a b : State} (hl : a.slotLeft = b.slotLeft) (hr : a.slotRight = b.slotRight) (slot : Slot) :
    a.slot slot = b.slot slot := by
  cases slot
  · exact hl
  · exact hr

/-- The command that is accepted or rejected at a step leaves what the edge made of the results and the slots. -/
theorem step_results (hr : s.hostPort.rst = false) (h : step s = .next t) :
    t.rdata = s.edge.rdata ∧ t.presence = s.edge.presence ∧ t.presValid = s.edge.presValid ∧
    t.slotLeft = s.edge.slotLeft ∧ t.slotRight = s.edge.slotRight := by
  rcases step_kinds h with ⟨h1, -⟩ | ⟨-, -, rfl⟩ | ⟨-, w, c, -, -, rfl⟩ |
    ⟨-, -, w, i, -, -, ⟨arg, wave, -, rfl, -⟩ | ⟨arg, slot, ops, -, rfl, -⟩⟩
  · rw [hr] at h1; cases h1
  · have := plainEdge_sameCore s
    exact ⟨this.rdata, this.presence, this.presValid, this.slotLeft, this.slotRight⟩
  all_goals simp

/-- A completing command is a running one. -/
theorem State.busy_of_completes (h : s.completes = true) : s.busy = true := by
  unfold State.completes at h
  unfold State.busy
  cases hm : s.seq.mode <;> simp_all

/-- BUSY and DONE after an edge, but for the host's write (R28, R29). -/
theorem State.edge_busy_done (s : State) :
    s.edge.busy = (s.busy && !s.completes) ∧ s.edge.done = (s.done || s.completes) := by
  cases hc : s.completes with
  | true =>
    obtain ⟨r, he, -⟩ := State.advance_of_completes hc
    rw [State.edge_busy, State.edge_done, he]
    simp
  | false =>
    obtain ⟨h1, h2, -⟩ := State.advance_of_not_completes hc
    rw [State.edge_busy, State.edge_done, State.busy_congr h1, h2]
    simp

end Sys2Proof.Machine
end

