-- ==== Sys2Proof/Laws/PerInstr.lean ====
section
/-! SUPPORT. RowMatch, per instruction: the word of a command matches its row of the opcode map (30_encoding.md R83), and its
opcode is the row's. -/

namespace Sys2Proof.Laws.RowMatch

/-- The encoding of `i` under its format's mask is its opcode (R83: match = op in every row). -/
def Statement (i : Instr) : Prop := encode i &&& i.format.mask = i.op.setWidth 32

theorem owReset : Statement .owReset := by unfold Statement; decide

theorem owWriteByte (byte : BitVec 8) : Statement (.owWriteByte byte) := by
  unfold Statement; revert byte; decide

theorem owReadWord : Statement .owReadWord := by unfold Statement; decide

theorem owReadTemp : Statement .owReadTemp := by unfold Statement; decide

theorem dsrRenderFirst (slot : Slot) (digit : BitVec 4) : Statement (.dsrRenderFirst slot digit) := by
  unfold Statement; revert digit; cases slot <;> decide

theorem dsrRender (slot : Slot) (digit : BitVec 4) : Statement (.dsrRender slot digit) := by
  unfold Statement; revert digit; cases slot <;> decide

theorem dsrInvalidate : Statement .dsrInvalidate := by unfold Statement; decide

end Sys2Proof.Laws.RowMatch
end

