-- ==== Sys2Proof/Tests/Slice0.lean ====
section
/-! SUPPORT. Tests of the model against words and values of the spec, and for every obligation with hypotheses a witness that meets them. -/

namespace Sys2Proof.Tests

open Sys2Proof Sys2Proof.Machine

/-! ### Helpers -/

/-- The state a step answers, or the state itself. -/
def after (s : State) : State :=
  match step s with
  | .next t => t
  | .fault _ => s
  | .refused _ => s

/-- The state exec answers, or the state itself. -/
def accepted (i : Instr) (s : State) : State :=
  match exec i s with
  | .next t => t
  | .fault _ => s
  | .refused _ => s

/-- The reset state, with the line high and a ready sink in the next 16 cycles. -/
def ready : State :=
  { State.reset with env := ⟨0, [], List.replicate 16 true, List.replicate 16 true⟩ }

/-- `ready` with COLOR and SLOTS. -/
def painted (fg bg : Half) (left right : Bitmap) : State :=
  { ready with fg := fg, bg := bg, slotLeft := left, slotRight := right }

/-- An accepted OW command at phase `k` with `t` ticks left, the synchronizer at `level`, and captures so far. -/
def inPhase (i : Instr) (k t : Nat) (level : Bool) (rshift : Half) (presTmp : Bool) : State :=
  let s := accepted i ready
  { s with
    seq := { s.seq with k := k, t := t, rshift := rshift, presTmp := presTmp }
    sync := [level, level]
    owDriveLow := (s.seq.wave[k]?.map Phase.drive).getD false }

/-- An accepted DSR command that offers op `j`. -/
def inOp (i : Instr) (j : Nat) (s : State) : State := (accepted i s).presentOp j

/-! ### WellFormed and the encoding -/

theorem test_wf_refuses_digit_above_9 :
    (Instr.dsrRenderFirst .left 10#4).wf = false ∧ (Instr.dsrRenderFirst .right 15#4).wf = false ∧
    (Instr.dsrRender .left 10#4).wf = false ∧ (Instr.dsrRender .right 15#4).wf = false ∧
    (Instr.dsrRenderFirst .right 9#4).wf = true ∧ (Instr.dsrRender .left 9#4).wf = true := by decide

/-- Format N, R82: sixteen zeros, eight zeros, four zeros, `oooo`. -/
theorem test_decode_format_n :
    decode (BitVec.ofNat 32 0b0000000000000000_00000000_0000_0001) = .command .owReset ∧
    decode (BitVec.ofNat 32 0b0000000000000000_00000000_0000_0011) = .command .owReadWord ∧
    decode (BitVec.ofNat 32 0b0000000000000000_00000000_0000_0100) = .command .owReadTemp ∧
    decode (BitVec.ofNat 32 0b0000000000000000_00000000_0000_1010) = .command .dsrInvalidate := by decide

/-- Format B, R82: sixteen zeros, `bbbbbbbb`, four zeros, `oooo`. -/
theorem test_decode_format_b :
    decode (BitVec.ofNat 32 0b0000000000000000_10111110_0000_0010) = .command (.owWriteByte 0xBE#8) ∧
    decode (BitVec.ofNat 32 0b0000000000000000_00000001_0000_0010) = .command (.owWriteByte 0x01#8) := by decide

/-- Format D, R82: fifteen zeros, `s`, four zeros, `dddd`, four zeros, `oooo`. -/
theorem test_decode_format_d :
    decode (BitVec.ofNat 32 0b000000000000000_1_0000_1001_0000_1000) = .command (.dsrRenderFirst .right 9#4) ∧
    decode (BitVec.ofNat 32 0b000000000000000_0_0000_0101_0000_1000) = .command (.dsrRenderFirst .left 5#4) ∧
    decode (BitVec.ofNat 32 0b000000000000000_1_0000_0011_0000_1001) = .command (.dsrRender .right 3#4) ∧
    decode (BitVec.ofNat 32 0b000000000000000_0_0000_0000_0000_1001) = .command (.dsrRender .left 0#4) := by decide

/-- Rejected words of 95_test_vectors.md, "Encoding and decode". -/
theorem test_decode_rejects :
    decode 0xFFFFFFFF#32 = .reject .reservedOpcode ∧ decode 0x0002000F#32 = .reject .reservedOpcode ∧
    decode 0x00000010#32 = .reject .reservedOpcode ∧
    decode 0x00000101#32 = .reject .reservedField ∧ decode 0x00000012#32 = .reject .reservedField ∧
    decode 0x00010002#32 = .reject .reservedField ∧ decode 0x80000001#32 = .reject .reservedField ∧
    decode 0x00100003#32 = .reject .reservedField ∧ decode 0x0001000A#32 = .reject .reservedField ∧
    decode 0x00001008#32 = .reject .reservedField ∧ decode 0x00020C08#32 = .reject .reservedField ∧
    decode 0x00000A08#32 = .reject .digitRange ∧ decode 0x00000F09#32 = .reject .digitRange := by decide

/-- The words of the program notation (R90, R91). -/
theorem test_encode_words :
    encode (.owWriteByte 0x44#8) = 0x00004402#32 ∧ encode (.dsrRenderFirst .right 9#4) = 0x00010908#32 ∧
    encode (.dsrRender .left 2#4) = 0x00000209#32 ∧ encode .owReset = 0x00000001#32 ∧ encode .owReadWord = 0x00000003#32 ∧
    encode .owReadTemp = 0x00000004#32 ∧ encode .dsrInvalidate = 0x0000000A#32 := by decide

/-- The interface's view of a word, from a table word and at the port. -/
theorem test_fetch_word :
    decodeTableWord 32 0x00010309 = some (.dsrRender .right 3#4) ∧ decodeTableWord 32 0x00000A09 = none ∧
    (State.reset.withFetchWord 32 0x00010309).offered = some 0x00010309#32 ∧
    (after (State.reset.withFetchWord 32 0x00010309)).lat.op = 0x9#4 := by decide

/-! ### OW_RESET: V-OW-1 -/

theorem test_owReset_drives_low_480_us :
    (after (ready.withHost (HostCycle.write 0x00#5 0x00000001#32))).regRead 0x04#5 = 0x00000001#32 ∧
    (after (ready.withHost (HostCycle.write 0x00#5 0x00000001#32))).owDriveLow = true ∧
    (after (ready.withHost (HostCycle.write 0x00#5 0x00000001#32))).seq.t = 480 ∧
    (after (inPhase .owReset 0 1 true 0#16 false)).owDriveLow = false := by decide

theorem test_owReset_reports_presence :
    (after (inPhase .owReset 1 1 true 0#16 true)).regRead 0x04#5 = 0x00000022#32 ∧
    (after (inPhase .owReset 1 1 false 0#16 false)).regRead 0x04#5 = 0x00000032#32 := by decide

/-! ### OW_WRITE_BYTE: E8, V-OW-2 -/

theorem test_owWriteByte_slots_of_0xCC :
    (accepted (.owWriteByte 0xCC#8) ready).seq.wave.map Phase.us =
      [60, 1, 60, 1, 5, 56, 5, 56, 60, 1, 60, 1, 5, 56, 5, 56] := by decide

theorem test_owWriteByte_last_slot :
    (after (inPhase (.owWriteByte 0x80#8) 13 1 true 0#16 false)).seq.t = 5 ∧
    (after (inPhase (.owWriteByte 0x80#8) 13 1 true 0#16 false)).owDriveLow = true ∧
    (after (inPhase (.owWriteByte 0x80#8) 15 1 false 0#16 true)).regRead 0x04#5 = 0x00000002#32 := by decide

/-! ### OW_READ_WORD: V-OW-3, V-OW-6 -/

theorem test_owReadWord_captures_slot_4_in_bit_4 :
    (after (inPhase .owReadWord 13 1 true 0#16 false)).seq.rshift = 0x0010#16 ∧
    (after (inPhase .owReadWord 13 1 false 0xFFFF#16 false)).seq.rshift = 0xFFEF#16 ∧
    (after (inPhase .owReadWord 12 1 true 0#16 false)).seq.rshift = 0#16 := by decide

theorem test_owReadWord_writes_rdata :
    (after (inPhase .owReadWord 47 1 true 0x0190#16 true)).regRead 0x08#5 = 0x00000190#32 ∧
    (after (inPhase .owReadWord 47 1 true 0x0190#16 true)).regRead 0x04#5 = 0x00000002#32 ∧
    (after (inPhase .owReadWord 47 2 true 0x0190#16 true)).regRead 0x08#5 = 0#32 := by decide

/-! ### OW_READ_TEMP: V-OW-7 -/

theorem test_owReadTemp_waveform :
    (accepted .owReadTemp ready).seq.wave.length = 117 ∧ waveUs (accepted .owReadTemp ready).seq.wave = 754832 ∧
    (((accepted .owReadTemp ready).seq.wave.filter Phase.drive).map Phase.us).sum = 2080 := by decide

/-- With what is left of the waveform, its last slot. -/
def lastSlot : State :=
  { accepted .owReadTemp ready with
    seq := ⟨.owRun, readBitWave Params.default 15, 2, 1, 0x0190#16, true, [], 0⟩
    owDriveLow := false }

theorem test_owReadTemp_reports :
    (after lastSlot).regRead 0x08#5 = 0x00000190#32 ∧ (after lastSlot).regRead 0x04#5 = 0x00000032#32 := by decide

/-! ### DSR_RENDER_FIRST: the example of R146, V-DSR-2 -/

theorem test_dsrRenderFirst_offers_segment_A :
    (accepted (.dsrRenderFirst .left 5#4) (painted 0xF800#16 0#16 0#7 0#7)).seg = some ⟨.left, 0#3, 0xF800#16, false, 0#7⟩ ∧
    (accepted (.dsrRenderFirst .left 5#4) (painted 0xF800#16 0#16 0#7 0#7)).seq.ops.map (fun o => o.seg.toNat) = [0, 2, 3, 5, 6] := by
  decide

theorem test_dsrRenderFirst_erases_nothing :
    (accepted (.dsrRenderFirst .left 1#4) (painted 0xFFFF#16 0#16 0x7F#7 0#7)).seq.ops =
      [⟨.left, 1#3, 0xFFFF#16, false⟩, ⟨.left, 2#3, 0xFFFF#16, false⟩] ∧
    (after (inOp (.dsrRenderFirst .left 1#4) 1 (painted 0xFFFF#16 0#16 0x7F#7 0#7))).regRead 0x10#5 = 0x00000030#32 := by decide

/-! ### DSR_RENDER: the example of R147 -/

theorem test_dsrRender_diff_of_2_and_3 :
    (accepted (.dsrRender .right 3#4) (painted 0xFFFF#16 0#16 0#7 0x6D#7)).seq.ops =
      [⟨.right, 2#3, 0xFFFF#16, false⟩, ⟨.right, 4#3, 0#16, true⟩] := by decide

theorem test_dsrRender_last_op :
    (after (inOp (.dsrRender .right 3#4) 0 (painted 0xFFFF#16 0#16 0#7 0x6D#7))).seg =
      some ⟨.right, 4#3, 0#16, true, 63#7⟩ ∧
    (after (inOp (.dsrRender .right 3#4) 0 (painted 0xFFFF#16 0#16 0#7 0x6D#7))).regRead 0x10#5 = 0x00006D00#32 ∧
    (after (inOp (.dsrRender .right 3#4) 1 (painted 0xFFFF#16 0#16 0#7 0x6D#7))).regRead 0x10#5 = 0x00007900#32 ∧
    (after (inOp (.dsrRender .right 3#4) 1 (painted 0xFFFF#16 0#16 0#7 0x6D#7))).regRead 0x04#5 = 0x00000002#32 := by decide

/-- R149: the rectangle of a segment of the right slot stands 63 pixels to the right of the segment's own. -/
theorem test_fillRect_moves_by_the_slot_offset :
    SegOut.fillRect { Params.default with segRect := Vector.replicate 7 ⟨5, 6, 7, 8⟩ } ⟨.right, 6#3, 0#16, true, 63#7⟩ =
      some ⟨68, 69, 7, 8⟩ := by decide

/-! ### DSR_INVALIDATE: V-DSR-4, V-ERR-1 -/

theorem test_dsrInvalidate_clears_both_slots :
    (accepted .dsrInvalidate (painted 0#16 0#16 0x5B#7 0x7B#7)).regRead 0x10#5 = 0x00007B5B#32 ∧
    (after (accepted .dsrInvalidate (painted 0#16 0#16 0x5B#7 0x7B#7))).regRead 0x10#5 = 0#32 ∧
    (after (accepted .dsrInvalidate (painted 0#16 0#16 0x5B#7 0x7B#7))).regRead 0x04#5 = 0x00000002#32 := by decide

theorem test_dsrInvalidate_overrun_on_its_last_cycle :
    (after ((accepted .dsrInvalidate ready).withHost (HostCycle.write 0x00#5 0x0000000A#32))).regRead 0x04#5 =
      0x0000040A#32 := by decide

/-! ### STATUS, `irq` and reset -/

/-- V-ERR-2. -/
theorem test_cause_survives_ack :
    (after (ready.withHost (HostCycle.write 0x00#5 0x00000C08#32))).regRead 0x04#5 = 0x00000304#32 ∧
    (after ((after (ready.withHost (HostCycle.write 0x00#5 0x00000C08#32))).withHost
      (HostCycle.write 0x04#5 0x0000000E#32))).regRead 0x04#5 = 0x00000300#32 := by decide

/-- V-W1C-1: the set wins at the completion edge, and the same write clears DONE at the next. -/
theorem test_set_wins_over_clear :
    (after ((inPhase .owReset 1 1 true 0#16 false).withHost (HostCycle.write 0x04#5 0x00000002#32))).regRead 0x04#5 =
      0x00000022#32 ∧
    (after ((after (inPhase .owReset 1 1 true 0#16 false)).withHost (HostCycle.write 0x04#5 0x00000002#32))).regRead 0x04#5 =
      0x00000020#32 := by decide

/-- V-IRQ-3. -/
theorem test_irq_of_the_error_group :
    (after { ready with errIe := true, overrun := true }).irq = true ∧
    (after { ready with errIe := true, done := true }).irq = false := by decide

/-- V-RST-1: a reset in the middle of a command. -/
theorem test_reset_abandons_a_command :
    (after ((inPhase .owReadTemp 0 5 true 0x0190#16 true).withHost { HostCycle.idle with rst := true })).regRead 0x04#5 = 0#32 ∧
    (after ((inPhase .owReadTemp 0 5 true 0x0190#16 true).withHost { HostCycle.idle with rst := true })).owDriveLow = false := by
  decide

/-! ### Witnesses of the obligations' hypotheses -/

theorem witness_DecodeEncodeRoundTrip : (Instr.dsrRender .right 9#4).WellFormed := by decide

theorem witness_DecodedWordIsItsEncoding : decode 0x00010909#32 = .command (.dsrRender .right 9#4) := by decide

/-- A decoded word of each unit, for the last clause of WordSpellsCommandByMatchAndMask. -/
theorem witness_WordSpellsCommandByMatchAndMask :
    decode 0x0000FF02#32 = .command (.owWriteByte 0xFF#8) ∧ decode 0x0000000A#32 = .command .dsrInvalidate := by decide

theorem witness_RejectedWordHasItsCause :
    (0x00000000#32).extractLsb' 0 4 ∈ [0x0#4, 0x5#4, 0x6#4, 0x7#4, 0xB#4, 0xC#4, 0xD#4, 0xE#4, 0xF#4] ∧
    ((0x80000001#32).extractLsb' 0 4 = 0x1#4 ∧ 0x80000001#32 &&& 0xFFFFFFFF#32 ≠ (0x1#4).setWidth 32) ∧
    ((0x00010002#32).extractLsb' 0 4 = 0x2#4 ∧ 0x00010002#32 &&& 0xFFFF00FF#32 ≠ (0x2#4).setWidth 32) ∧
    ((0x00000013#32).extractLsb' 0 4 = 0x3#4 ∧ 0x00000013#32 &&& 0xFFFFFFFF#32 ≠ (0x3#4).setWidth 32) ∧
    ((0x00000104#32).extractLsb' 0 4 = 0x4#4 ∧ 0x00000104#32 &&& 0xFFFFFFFF#32 ≠ (0x4#4).setWidth 32) ∧
    ((0x00020008#32).extractLsb' 0 4 = 0x8#4 ∧ 0x00020008#32 &&& 0xFFFEF0FF#32 ≠ (0x8#4).setWidth 32) ∧
    ((0x00001009#32).extractLsb' 0 4 = 0x9#4 ∧ 0x00001009#32 &&& 0xFFFEF0FF#32 ≠ (0x9#4).setWidth 32) ∧
    ((0x0001000A#32).extractLsb' 0 4 = 0xA#4 ∧ 0x0001000A#32 &&& 0xFFFFFFFF#32 ≠ (0xA#4).setWidth 32) ∧
    (0x00000A08#32 &&& 0xFFFEF0FF#32 = 0x00000008#32 ∧ 10 ≤ ((0x00000A08#32).extractLsb' 8 4).toNat) ∧
    (0x00010F09#32 &&& 0xFFFEF0FF#32 = 0x00000009#32 ∧ 10 ≤ ((0x00010F09#32).extractLsb' 8 4).toNat) := by decide

theorem witness_RegisterReadReturnsItsFields :
    (ready.withHost (HostCycle.read 0x04#5)).hostPort.hRd = true ∧
    (0x03#5).toNat / 4 = 0 ∧ (0x07#5).toNat / 4 = 1 ∧ (0x08#5).toNat / 4 = 2 ∧ (0x0F#5).toNat / 4 = 3 ∧
    (0x10#5).toNat / 4 = 4 ∧ (0x17#5).toNat / 4 = 5 ∧ (0x18#5).toNat / 4 = 6 ∧ (0x1F#5).toNat / 4 = 7 := by decide

theorem witness_LowAddressBitsAreIgnored : (0x04#5).extractLsb' 2 3 = (0x07#5).extractLsb' 2 3 := by decide

theorem witness_ColorAndIeWritesStore :
    (ready.withHost (HostCycle.write 0x0F#5 0xFFFF0001#32)).hostPort.rst = false ∧
    (ready.withHost (HostCycle.write 0x0F#5 0xFFFF0001#32)).hostPort.hWr = true ∧
    (ready.withHost (HostCycle.write 0x0F#5 0xFFFF0001#32)).hostPort.hAddr.toNat / 4 = 3 ∧
    (ready.withHost (HostCycle.write 0x14#5 0xFFFFFFFF#32)).hostPort.rst = false ∧
    (ready.withHost (HostCycle.write 0x14#5 0xFFFFFFFF#32)).hostPort.hWr = true ∧
    (ready.withHost (HostCycle.write 0x14#5 0xFFFFFFFF#32)).hostPort.hAddr.toNat / 4 = 5 := by decide

theorem witness_StatusWriteOneToClear :
    (ready.withHost (HostCycle.write 0x07#5 0x0000000E#32)).hostPort.rst = false ∧
    (ready.withHost (HostCycle.write 0x07#5 0x0000000E#32)).hostPort.hWr = true ∧
    (ready.withHost (HostCycle.write 0x07#5 0x0000000E#32)).hostPort.hAddr.toNat / 4 = 1 := by decide

theorem witness_ReadOnlyAndReservedWritesIgnored :
    ∀ off ∈ [0x08#5, 0x0B#5, 0x10#5, 0x13#5, 0x18#5, 0x1F#5],
      (ready.withHost (HostCycle.write off 0xFFFFFFFF#32)).hostPort.hWr = true ∧
      (ready.withHost (HostCycle.write off 0xFFFFFFFF#32)).hostPort.hAddr.toNat / 4 ∈ [2, 4, 6, 7] := by decide

theorem witness_StepRunsTheDecodedCommand :
    (ready.withHost (HostCycle.write 0x03#5 0x00010909#32)).hostPort.rst = false ∧
    (ready.withHost (HostCycle.write 0x03#5 0x00010909#32)).hostPort.hWr = true ∧
    (ready.withHost (HostCycle.write 0x03#5 0x00010909#32)).hostPort.hAddr.toNat / 4 = 0 ∧
    (ready.withHost (HostCycle.write 0x03#5 0x00010909#32)).busy = false ∧
    decode (ready.withHost (HostCycle.write 0x03#5 0x00010909#32)).hostPort.hWdata = .command (.dsrRender .right 9#4) := by decide

theorem witness_RejectionRecordsOnlyItsCause :
    (∀ wc ∈ [(0x00000000#32, Cause.reservedOpcode), (0x00000101#32, Cause.reservedField), (0x00000A08#32, Cause.digitRange)],
      (ready.withHost (HostCycle.write 0x00#5 wc.1)).hostPort.rst = false ∧
      (ready.withHost (HostCycle.write 0x00#5 wc.1)).hostPort.hWr = true ∧
      (ready.withHost (HostCycle.write 0x00#5 wc.1)).hostPort.hAddr.toNat / 4 = 0 ∧
      (ready.withHost (HostCycle.write 0x00#5 wc.1)).busy = false ∧
      decode (ready.withHost (HostCycle.write 0x00#5 wc.1)).hostPort.hWdata = .reject wc.2) ∧
    ((accepted .owReset ready).withHost (HostCycle.write 0x00#5 0x00000001#32)).hostPort.rst = false ∧
    ((accepted .owReset ready).withHost (HostCycle.write 0x00#5 0x00000001#32)).hostPort.hWr = true ∧
    ((accepted .owReset ready).withHost (HostCycle.write 0x00#5 0x00000001#32)).hostPort.hAddr.toNat / 4 = 0 ∧
    ((accepted .owReset ready).withHost (HostCycle.write 0x00#5 0x00000001#32)).busy = true := by decide

theorem witness_WriteWhileBusyIsOverrun :
    ((accepted .owReset ready).withHost (HostCycle.write 0x00#5 0x0002000F#32)).hostPort.rst = false ∧
    ((accepted .owReset ready).withHost (HostCycle.write 0x00#5 0x0002000F#32)).hostPort.hWr = true ∧
    ((accepted .owReset ready).withHost (HostCycle.write 0x00#5 0x0002000F#32)).hostPort.hAddr.toNat / 4 = 0 ∧
    ((accepted .owReset ready).withHost (HostCycle.write 0x00#5 0x0002000F#32)).busy = true := by decide

theorem witness_ExecTurnsAwayByName :
    (accepted .dsrInvalidate ready).busy = true ∧ ready.busy = false ∧ 10 ≤ (10#4).toNat ∧ 10 ≤ (15#4).toNat := by decide

theorem witness_OwCommandsAreAccepted : ready.busy = false := by decide

theorem witness_DsrCommandsAreAccepted :
    ready.busy = false ∧ romTable[(0#4).toNat]? = some 0x7E#7 ∧ romTable[(9#4).toNat]? = some 0x7B#7 := by decide

theorem witness_AcceptanceChangesOnlyBusy : (Instr.dsrRenderFirst .left 9#4).WellFormed ∧ ready.busy = false := by decide

theorem witness_OwCommandRunsItsWaveform :
    ready.params.Ok ∧ ready.busy = false ∧ owWave ready.params .owReset = some (resetWave ready.params) ∧
    ready.NoReset (waveTicks ready.params (resetWave ready.params)) := by decide

theorem witness_OwResetReportsPresence :
    ready.params.Ok ∧ ready.busy = false ∧
    ready.NoReset ((ready.params.tRstLow + ready.params.tRstWait) * ready.params.ticksPerUs) ∧
    ∀ c ∈ ready.env.host.take ((ready.params.tRstLow + ready.params.tRstWait) * ready.params.ticksPerUs), c.hWr = false := by
  decide

theorem witness_OwWriteByteWritesOnlyDone :
    ready.params.Ok ∧ ready.busy = false ∧ ready.NoReset (waveTicks ready.params (writeByteWave ready.params 0xCC#8)) ∧
    ∀ c ∈ ready.env.host.take (waveTicks ready.params (writeByteWave ready.params 0xCC#8)), c.hWr = false := by decide

theorem witness_OwReadWordAssemblesTheBits :
    ready.params.Ok ∧ ready.busy = false ∧
    ready.NoReset (16 * (ready.params.tRLow + ready.params.tRSample + ready.params.tRIdle) * ready.params.ticksPerUs) ∧
    ∀ c ∈ ready.env.host.take (16 * (ready.params.tRLow + ready.params.tRSample + ready.params.tRIdle) * ready.params.ticksPerUs),
      c.hWr = false := by decide

/-- The second reset ends at 752896 µs, the word starts at 753872 µs, and the command ends at 754832 µs (R116). -/
theorem witness_OwReadTempReportsWordAndLastPresence :
    ready.params.Ok ∧ ready.busy = false ∧
    752896 = 2 * (ready.params.tRstLow + ready.params.tRstWait) + waveUs (writeByteWave ready.params 0xCC#8) +
      waveUs (writeByteWave ready.params 0x44#8) + ready.params.tConv ∧
    753872 = 752896 + waveUs (writeByteWave ready.params 0xCC#8) + waveUs (writeByteWave ready.params 0xBE#8) ∧
    754832 = (753872 + 16 * (ready.params.tRLow + ready.params.tRSample + ready.params.tRIdle)) * ready.params.ticksPerUs ∧
    ready.NoReset 754832 ∧ ∀ c ∈ ready.env.host.take 754832, c.hWr = false := by
  have h : ready.env.host.take 754832 = [] := List.take_nil
  refine ⟨by decide, by decide, by decide, by decide, by decide, ?_, ?_⟩
  · rw [State.NoReset, h]; decide
  · rw [h]; decide

/-- Parameters at both bounds of R7: SYNC_STAGES = T_R_SAMPLE × TICKS_PER_US = T_RST_WAIT × TICKS_PER_US. -/
def boundParams : Params := { Params.default with tRSample := 480, syncStages := 480 }

theorem witness_SamplesReadTheirReleasePhase :
    boundParams.Ok ∧ (State.resetWith boundParams Env.reset).busy = false ∧
    owWave boundParams .owReset = some (resetWave boundParams) ∧
    (State.resetWith boundParams Env.reset).NoReset (waveTicks boundParams (resetWave boundParams)) ∧
    (resetWave boundParams)[1]? = some ⟨false, 480, .presence⟩ ∧
    owWave boundParams .owReadWord = some (readWordWave boundParams) ∧
    (State.resetWith boundParams Env.reset).NoReset (waveTicks boundParams (readWordWave boundParams)) ∧
    (readWordWave boundParams)[46]? = some ⟨false, 480, .bit 15⟩ := by decide

/-- The level of the cycle an edge begins enters stage 0 (R43, R7): the line is high in this cycle and low in the next. -/
theorem test_sync_registers_the_cycle_the_edge_begins :
    (after { ready with env := ⟨0, [], [true, false], []⟩ }).sync = [false, true] := by decide

theorem witness_RomTableOfTheSource : rom 9#4 = some 0x7B#7 ∧ rom 0#4 = some 0x7E#7 := by decide

/-- A display that shows digit 2 in the left slot and background elsewhere (E4). -/
def shows2 : Display := fun slot seg =>
  if slot = .left ∧ (seg = 0#3 ∨ seg = 1#3 ∨ seg = 3#3 ∨ seg = 4#3 ∨ seg = 6#3) then 0xFFFF#16 else 0#16

theorem witness_RenderBackIsTheInverse : shows2.Shows .left 0x6D#7 0xFFFF#16 0#16 := by
  unfold Display.Shows; decide

/-- `painted` with a sink that stalls in this cycle and accepts from the next one on. -/
def stalled (left : Bitmap) : State :=
  { painted 0xFFFF#16 0#16 left 0#7 with env := ⟨0, [], List.replicate 16 true, false :: List.replicate 15 true⟩ }

/-- The sink accepts in cycles 1 and 2: both clauses for a render of two ops, and the last for an invalidate. -/
theorem witness_DsrCommandEmitsItsOps :
    (stalled 0x6D#7).busy = false ∧
    dsrOps (stalled 0x6D#7) (.dsrRender .left 3#4) = some [⟨.left, 2#3, 0xFFFF#16, false⟩, ⟨.left, 4#3, 0#16, true⟩] ∧
    (stalled 0x6D#7).NoReset 3 ∧ (stalled 0x6D#7).env.readyCount 1 = 0 ∧ (stalled 0x6D#7).env.readyCount 2 = 1 ∧
    (stalled 0x6D#7).env.readyCount 3 = 2 ∧
    dsrOps (stalled 0x6D#7) .dsrInvalidate = some [] ∧ (stalled 0x6D#7).NoReset 1 := by decide

/-- A `port` as DsrCommandEmitsItsOps asks for it. -/
theorem witness_DsrCommandEmitsItsOps_port (p : Params) (o : SegOp) :
    SegOp.present p o = ⟨o.slot, o.seg, o.color, o.erase, if o.slot = .left then p.xoffLeft else p.xoffRight⟩ := by
  unfold SegOp.present slotXoff
  cases o.slot <;> rfl

/-- A stalled DSR_RENDER_FIRST of a slot that is not 0, an invalidate in a cycle with `seg_ready` = 0, and a ready sink. -/
theorem witness_DsrCommandWritesItsSlot :
    ((stalled 0x6D#7).busy = false ∧
      dsrOps (stalled 0x6D#7) (.dsrRenderFirst .left 1#4) =
        some [⟨.left, 1#3, 0xFFFF#16, false⟩, ⟨.left, 2#3, 0xFFFF#16, false⟩] ∧
      (stalled 0x6D#7).NoReset 3 ∧ (stalled 0x6D#7).env.readyCount 2 < 2 ∧ (stalled 0x6D#7).env.readyCount 3 = 2 ∧
      ∀ c ∈ (stalled 0x6D#7).env.host.take 3, c.hWr = false) ∧
    (dsrOps (stalled 0x6D#7) .dsrInvalidate = some [] ∧ (stalled 0x6D#7).segReady = false ∧ (stalled 0x6D#7).NoReset 1) ∧
    ((painted 0xFFFF#16 0#16 0#7 0x6D#7).busy = false ∧
      dsrOps (painted 0xFFFF#16 0#16 0#7 0x6D#7) (.dsrRender .right 3#4) =
        some [⟨.right, 2#3, 0xFFFF#16, false⟩, ⟨.right, 4#3, 0#16, true⟩] ∧
      (painted 0xFFFF#16 0#16 0#7 0x6D#7).NoReset 2 ∧
      ∀ k, k < 2 → (painted 0xFFFF#16 0#16 0#7 0x6D#7).env.segReadyAt k = true) := by decide

theorem witness_RenderOfSameDigitEmitsNothing :
    (painted 0xFFFF#16 0#16 0#7 0x33#7).busy = false ∧
    some ((painted 0xFFFF#16 0#16 0#7 0x33#7).slot .right) = rom 4#4 ∧ (painted 0xFFFF#16 0#16 0#7 0x33#7).NoReset 1 := by decide

theorem witness_StalledSinkHoldsTheOp :
    (accepted (.dsrRender .left 3#4) (stalled 0x6D#7)).seq.mode = .dsrRun ∧
    (accepted (.dsrRender .left 3#4) (stalled 0x6D#7)).seg ≠ none ∧
    (accepted (.dsrRender .left 3#4) (stalled 0x6D#7)).segReady = false ∧
    (accepted (.dsrRender .left 3#4) (stalled 0x6D#7)).hostPort.rst = false := by decide

theorem witness_RenderKeepsTheDisplayInvariant :
    (stalled 0x6D#7).busy = false ∧ rom 3#4 = some 0x79#7 ∧
    shows2.Shows .left ((stalled 0x6D#7).slot .left) (stalled 0x6D#7).fg (stalled 0x6D#7).bg ∧ (stalled 0x6D#7).NoReset 3 ∧
    (stalled 0x6D#7).env.readyCount 2 < popcount ((stalled 0x6D#7).slot .left ^^^ 0x79#7) ∧
    (stalled 0x6D#7).env.readyCount 3 = popcount ((stalled 0x6D#7).slot .left ^^^ 0x79#7) ∧
    rom 2#4 = some 0x6D#7 ∧ (stalled 0x6D#7).slot .left = 0x6D#7 := by
  unfold Display.Shows; decide

/-- A display in its background. -/
def blank : Display := fun _ _ => 0x001F#16

theorem witness_RenderFirstOnABlankSlotShowsTheDigit :
    (∀ j ∈ canonicalBits, blank .left (segOfBit j) = 0x001F#16) ∧ (stalled 0#7).busy = false ∧ rom 1#4 = some 0x30#7 ∧
    (stalled 0#7).slot .left = 0#7 ∧ (stalled 0#7).NoReset 3 ∧ (stalled 0#7).env.readyCount 2 < popcount 0x30#7 ∧
    (stalled 0#7).env.readyCount 3 = popcount 0x30#7 := by decide

/-- The clauses of SynchronizerDelaysTheLine: without reset, with it, and a run as long as the chain. -/
theorem witness_SynchronizerDelaysTheLine :
    (ready.hostPort.rst = false ∧ step ready = .next (after ready) ∧ ready.sync.length = ready.params.syncStages) ∧
    (ready.withHost { HostCycle.idle with rst := true }).hostPort.rst = true ∧
    (1 ≤ ready.params.syncStages ∧ ready.params.syncStages ≤ 2 ∧ ready.NoReset 2 ∧
      run 2 ready = .next (after (after ready))) := by
  refine ⟨⟨?_, rfl, ?_⟩, ?_, ?_, ?_, ?_, rfl⟩ <;> decide

/-- The hypotheses of IrqFollowsItsSources, ParametersNeverChange and HostRegistersChangeOnlyByHostWrites. -/
theorem witness_steps_without_reset :
    ready.hostPort.rst = false ∧ ready.hostPort.hWr = false ∧ (∃ t, step ready = .next t) := ⟨by decide, by decide, _, rfl⟩

theorem witness_ResetEdgeResetsEverything :
    ((inPhase .owReset 0 5 true 0#16 false).withHost { HostCycle.write 0x00#5 0x00000001#32 with rst := true }).hostPort.rst =
      true := by decide

/-- The invariant's two busy cases hold in states of running commands. -/
theorem witness_StepKeepsTheInvariant :
    (inPhase (.owWriteByte 0xCC#8) 3 1 true 0#16 false).Inv ∧ (inOp (.dsrRender .left 3#4) 1 (stalled 0x6D#7)).Inv ∧
    (∃ t, step (inPhase (.owWriteByte 0xCC#8) 3 1 true 0#16 false) = .next t) ∧
    (∃ t, step (inOp (.dsrRender .left 3#4) 1 (stalled 0x6D#7)) = .next t) := by
  refine ⟨by decide, by decide, ⟨_, rfl⟩, _, rfl⟩

theorem witness_ResetHasTheInvariant : (Params.defaults 50 0x40000000 (Vector.replicate 7 ⟨1, 2, 3, 4⟩)).Ok := by decide

theorem witness_PhaseCounterFitsItsWidth :
    (inPhase .owReset 0 480 true 0#16 false).Inv ∧ (inPhase .owReset 0 480 true 0#16 false).seq.mode = .owRun := by decide

/-- An OW_RESET in its last cycle, the line at `level` two edges ago. -/
def resetEnds (level : Bool) : State := inPhase .owReset 1 1 level 0#16 false

/-- A command offered to an idle block. -/
def offering : State := ready.withHost (HostCycle.write 0x00#5 0x00000003#32)

/-- The host clears DONE of an idle block. -/
def acking : State := { ready with done := true }.withHost (HostCycle.write 0x04#5 0x00000002#32)

/-- The clauses of BusyAndDoneTransitions: completing, busy and not completing, idle with and without a command offered, DONE
cleared. -/
theorem witness_BusyAndDoneTransitions :
    ((resetEnds true).hostPort.rst = false ∧ step (resetEnds true) = .next (after (resetEnds true))) ∧
    ((resetEnds true).completes = true ∧ (resetEnds true).done = false ∧ (after (resetEnds true)).done = true) ∧
    ((inPhase .owReset 1 2 true 0#16 false).hostPort.rst = false ∧
      step (inPhase .owReset 1 2 true 0#16 false) = .next (after (inPhase .owReset 1 2 true 0#16 false)) ∧
      (inPhase .owReset 1 2 true 0#16 false).completes = false ∧ (inPhase .owReset 1 2 true 0#16 false).busy = true) ∧
    (offering.hostPort.rst = false ∧ step offering = .next (after offering) ∧ offering.busy = false ∧
      offering.offered = some 0x00000003#32) ∧
    (ready.busy = false ∧ ready.offered = none) ∧
    (acking.hostPort.rst = false ∧ step acking = .next (after acking) ∧ acking.done = true ∧ (after acking).done = false) := by
  refine ⟨⟨?_, rfl⟩, ?_, ⟨?_, rfl, ?_⟩, ⟨?_, rfl, ?_⟩, ?_, ?_, rfl, ?_⟩ <;> decide

/-- An OW_READ_WORD in its last cycle. -/
def readEnds : State := inPhase .owReadWord 47 1 true 0x0190#16 true

theorem witness_OwResultsChangeOnlyAtTheirCompletions :
    (readEnds.hostPort.rst = false ∧ step readEnds = .next (after readEnds) ∧ (after readEnds).rdata ≠ readEnds.rdata) ∧
    ((resetEnds false).hostPort.rst = false ∧ step (resetEnds false) = .next (after (resetEnds false)) ∧
      (after (resetEnds false)).presence ≠ (resetEnds false).presence ∧
      (after (resetEnds false)).presValid ≠ (resetEnds false).presValid) ∧
    (after (resetEnds false)).presValid = true := by
  refine ⟨⟨?_, rfl, ?_⟩, ⟨?_, rfl, ?_⟩, ?_⟩ <;> decide

/-- A DSR_RENDER that offers its last op to a ready sink, and a DSR_INVALIDATE. -/
def renderEnds : State := inOp (.dsrRender .left 3#4) 1 (painted 0#16 0#16 0x6D#7 0#7)

def invalidateEnds : State := accepted .dsrInvalidate (painted 0#16 0#16 0x5B#7 0x7B#7)

theorem witness_SlotsChangeOnlyAtDsrCompletions :
    (renderEnds.hostPort.rst = false ∧ step renderEnds = .next (after renderEnds) ∧
      (after renderEnds).slot .left ≠ renderEnds.slot .left) ∧
    (invalidateEnds.hostPort.rst = false ∧ step invalidateEnds = .next (after invalidateEnds) ∧
      (after invalidateEnds).slot .right ≠ invalidateEnds.slot .right) := by
  refine ⟨⟨?_, rfl, ?_⟩, ?_, rfl, ?_⟩ <;> decide

/-- A command offered to a busy block. -/
def overrunning : State := (accepted .owReset ready).withHost (HostCycle.write 0x00#5 0x00000001#32)

theorem witness_CauseChangesOnlyAtRejections :
    (overrunning.hostPort.rst = false ∧ step overrunning = .next (after overrunning) ∧
      (after overrunning).cause ≠ overrunning.cause) ∧
    (ready.withHost (HostCycle.write 0x00#5 0x00000000#32)).hostPort.rst = false ∧
    step (ready.withHost (HostCycle.write 0x00#5 0x00000000#32)) =
      .next (after (ready.withHost (HostCycle.write 0x00#5 0x00000000#32))) ∧
    (after (ready.withHost (HostCycle.write 0x00#5 0x00000000#32))).cause ≠
      (ready.withHost (HostCycle.write 0x00#5 0x00000000#32)).cause := by
  refine ⟨⟨?_, rfl, ?_⟩, ?_, rfl, ?_⟩ <;> decide

theorem witness_LatchedOperandsHoldWhileBusy :
    (accepted .owReset ready).hostPort.rst = false ∧ (accepted .owReset ready).busy = true ∧
    (∃ t, step (accepted .owReset ready) = .next t) := ⟨by decide, by decide, _, rfl⟩

/-- An idle block to which a word that spells no command is offered. -/
def rejecting : State := ready.withHost (HostCycle.write 0x00#5 0x00000005#32)

theorem witness_IdleStaysIdle :
    rejecting.Inv ∧ rejecting.busy = false ∧ rejecting.offered = some 0x00000005#32 ∧
    ∀ w i, rejecting.offered = some w → decode w ≠ .command i := by
  have ho : rejecting.offered = some 0x00000005#32 := by decide
  have hd : decode 0x00000005#32 = .reject .reservedOpcode := by decide
  refine ⟨by decide, by decide, ho, fun w i hw => ?_⟩
  rw [ho] at hw
  cases hw
  rw [hd]
  exact Decoded.noConfusion

theorem witness_ColorWritesDoNotReachARunningCommand :
    (accepted (.dsrRender .right 8#4) (painted 0xFFFF#16 0#16 0#7 0#7)).busy = true := by decide

theorem witness_UnspecifiedIdleStateIsNeverObserved : State.reset.busy = false := by decide

end Sys2Proof.Tests
end

