-- ==== Sys2Proof/Proofs/Scope.lean ====
section
/-! PROOFS. The statements of 00_scope.md: every sample reads its own release phase (R7), and no step changes a parameter (R8). -/

namespace Sys2Proof.Machine

variable {p : Params} {i : Instr} {wave : List Phase} {ph : Phase} {z s u : State} {e : Env} {n k j : Nat} {a : Half × Bool}

/-! ### Where a phase of a waveform stands (40_onewire.md R103) -/

/-- The first `k + 1` phases last as long as the first `k` and phase `k`. -/
theorem waveTicks_take_succ (p : Params) (hk : wave[k]? = some ph) :
    waveTicks p (wave.take (k + 1)) = waveTicks p (wave.take k) + ph.us * p.ticksPerUs := by
  rw [List.take_add_one, hk, Option.toList_some, waveTicks_append, waveTicks_cons]
  simp [waveTicks, waveUs]

theorem waveTicks_take_le (p : Params) (wave : List Phase) (k : Nat) :
    waveTicks p (wave.take k) ≤ waveTicks p wave := by
  calc waveTicks p (wave.take k)
      ≤ waveTicks p (wave.take k) + waveTicks p (wave.drop k) := Nat.le_add_right _ _
    _ = waveTicks p wave := by rw [← waveTicks_append, List.take_append_drop]

/-- The synchronizer has at least one stage (R7). -/
theorem syncStages_pos (hp : p.Ok) : 1 ≤ p.syncStages := by
  obtain ⟨-, -, -, -, hS, -⟩ := hp
  exact hS

/-- Every phase of an OW command's waveform lasts at least one cycle (R7). -/
theorem owWave_ticks_pos (hp : p.Ok) (hw : owWave p i = some wave) : ∀ ph ∈ wave, 1 ≤ ph.us * p.ticksPerUs := by
  obtain ⟨hdur, -, -, hticks, -⟩ := hp
  exact fun ph hm => Nat.mul_pos (hdur ph.us (owWave_mem hw ph hm)) hticks

/-! ### The instants of the captures (R7, R104) -/

/-- Every sample of an OW command's waveform reads a level of the command's own run. -/
theorem owWave_sampleable (hp : p.Ok) (hw : owWave p i = some wave) : Sampleable p 0 wave := by
  cases i with
  | owReset => cases hw; exact (resetWave_fold hp (e := Env.reset) 0 (0#16, false)).1
  | owWriteByte byte => cases hw; exact (untagged_fold (e := Env.reset) _ (writeByte_untagged p byte) 0 (0#16, false)).1
  | owReadWord => cases hw; exact (readWordWave_fold hp (e := Env.reset) 0 (0#16, false)).1
  | owReadTemp => cases hw; exact (readTempWave_fold hp (e := Env.reset) (0#16, false)).1
  | dsrRenderFirst _ _ => cases hw
  | dsrRender _ _ => cases hw
  | dsrInvalidate => cases hw

/-- The capture of phase `k` comes more than SYNC_STAGES edges after the inputs the waveform started from. -/
theorem Sampleable.capture_late (h : Sampleable p n wave) (hk : wave[k]? = some ph) (htag : ph.tag ≠ .none) :
    p.syncStages + 1 ≤ n + waveTicks p (wave.take (k + 1)) := by
  obtain ⟨hlt, rfl⟩ := List.getElem?_eq_some_iff.1 hk
  rw [← List.take_append_drop k wave, sampleable_append, List.drop_eq_getElem_cons hlt] at h
  obtain ⟨-, hcapture, -⟩ := h
  rw [waveTicks_take_succ p hk, ← Nat.add_assoc]
  exact hcapture htag

/-! ### A cycle of a running phase -/

/-- In cycle `j` of a phase, `j` of its ticks have passed and the line has its drive (R42, R103). -/
theorem OwAt.ticks_and_drive (h : OwAt z e wave n k j a u) (hk : wave[k]? = some ph) :
    u.seq.t + j = ph.us * z.params.ticksPerUs ∧ u.owDriveLow = ph.drive := by
  obtain ⟨q, hq, ht, -, hd⟩ := h.phase
  obtain rfl : q = ph := Option.some.inj (hq.symm.trans hk)
  exact ⟨ht, hd⟩

theorem OwAt.owIn_eq (h : OwAt z e wave n k j a u) : u.owIn = e.owInAt n := h.env.owInAt 0

/-- The synchronizer's last stage holds the level of the cycle SYNC_STAGES edges before the next (R43, log 23). -/
theorem OwAt.lastStage_eq (h : OwAt z e wave n k j a u) (hS : 1 ≤ z.params.syncStages) (hn : z.params.syncStages ≤ n) :
    u.sync[z.params.syncStages - 1]? = some (e.owInAt (n + 1 - z.params.syncStages)) := by
  rw [h.sync _ (by omega) (by omega), show n - (z.params.syncStages - 1) = n + 1 - z.params.syncStages by omega]

/-- From its acceptance an OW command comes to every cycle `j` of each of its phases, whatever the host does. -/
theorem acceptOw_reachCycle (op : BitVec 4) (arg : BitVec 8) (hp : s.params.Ok) (hw : owWave s.params i = some wave)
    (hk : wave[k]? = some ph) (hj : j < ph.us * s.params.ticksPerUs) (hnr : s.NoReset (waveTicks s.params wave)) :
    ∃ a v, run (waveTicks s.params (wave.take k) + j) (s.acceptOw op arg wave) = .next v ∧
      OwAt (s.acceptOw op arg wave) s.env wave (waveTicks s.params (wave.take k) + j) k j a v := by
  have hpos := owWave_ticks_pos hp hw
  have hend := waveTicks_take_succ s.params hk
  have hle := waveTicks_take_le s.params wave (k + 1)
  have hstart : OwAt (s.acceptOw op arg wave) s.env wave 0 0 0 (s.seq.rshift, s.seq.presTmp) (s.acceptOw op arg wave) := by
    obtain ⟨first, rest, rfl⟩ := owWave_ne_nil hw
    exact acceptOw_at op arg (hpos first List.mem_cons_self)
  obtain ⟨a, v, hv, hat⟩ := hstart.reachPhase (by simpa using hpos) (by simpa using syncStages_pos hp)
    (by simpa using owWave_sampleable hp hw) k (List.getElem?_eq_some_iff.1 hk).1
    (fun m hm => hnr.hostAt (by rw [State.acceptOw_params] at hm; omega))
  rw [State.acceptOw_params] at hv hat
  have ht := (hat.ticks_and_drive hk).1
  rw [State.acceptOw_params] at ht
  obtain ⟨w, hrun, hat'⟩ := hat.ticks j (by omega) (fun m hm => hnr.hostAt (by omega))
  rw [Nat.zero_add, Nat.zero_add] at hat'
  exact ⟨a, w, (run_add hv).trans hrun, hat'⟩

/-! ### The statements -/

/-- Settles O54. The phase is at least SYNC_STAGES cycles long, so its cycle SYNC_STAGES before the capture is one of its own;
the level that cycle registers is in the last stage in the phase's last cycle. -/
theorem samplesReadTheirReleasePhase : Obligations.SamplesReadTheirReleasePhase := by
  unfold Obligations.SamplesReadTheirReleasePhase
  intro i wave s k ph hp hb hw hnr hk htag
  obtain ⟨hreleased, hlong⟩ := owWave_tagged hp hw ph (List.mem_of_getElem? hk) htag
  have hlate := (owWave_sampleable hp hw).capture_late hk htag
  have hend := waveTicks_take_succ s.params hk
  obtain ⟨arg, hexec⟩ := exec_of_owWave hb hw
  obtain ⟨_, u, hu, huat⟩ := acceptOw_reachCycle (j := ph.us * s.params.ticksPerUs - 1) i.op arg hp hw hk (by omega) hnr
  obtain ⟨_, v, hv, hvat⟩ :=
    acceptOw_reachCycle (j := ph.us * s.params.ticksPerUs - s.params.syncStages) i.op arg hp hw hk (by omega) hnr
  obtain ⟨hut, -⟩ := huat.ticks_and_drive hk
  obtain ⟨-, hvdrive⟩ := hvat.ticks_and_drive hk
  have hlast := huat.lastStage_eq (by simpa using syncStages_pos hp) (by rw [State.acceptOw_params]; omega)
  rw [State.acceptOw_params] at hut hlast
  refine ⟨_, u, v, hexec, ?_, ?_, huat.mode, huat.k_eq, by omega, hvat.mode, hvat.k_eq, hvdrive.trans hreleased, ?_⟩
  · rw [← hu]; congr 1; omega
  · rw [← hv]; congr 1; omega
  · rw [hlast, hvat.owIn_eq]; congr 2; omega

/-- Settles O42: a reset edge keeps the parameters (R190), and so does every kind of step without reset. -/
theorem parametersNeverChange : Obligations.ParametersNeverChange := by
  unfold Obligations.ParametersNeverChange
  intro s t h
  cases hr : s.hostPort.rst with
  | true =>
    obtain rfl : s.resetEdge = t := by simpa [step_of_reset hr] using h
    rfl
  | false => exact (step_sync hr h).2

end Sys2Proof.Machine
end

