-- ==== Sys2Proof/Proofs/State.lean ====
section
/-! PROOFS. The statements of 10_state.md: which edges change the registers, the slots, the latches and the synchronizer, the
machine's invariant, the emission of an op list, and the state that is unspecified while the block is idle. -/

namespace Sys2Proof.Machine

variable {s t u : State} {i : Instr} {n : Nat}

/-! ### Host writes to registers other than CMD (20_memory.md R64) -/

/-- The step with the write strobe taken away is the edge alone. -/
theorem step_without_write (hr : s.hostPort.rst = false) :
    step (s.withHost { s.hostPort with hWr := false }) = .next s.edge := by
  rw [step_of_no_offer (by simpa using hr) (by rw [offered_eq_none_iff]; simp), State.plainEdge]
  simp

/-- A write to a register other than CMD is the edge and then the write. -/
theorem step_of_register_write (hr : s.hostPort.rst = false) (hw : s.hostPort.hWr = true)
    (hi : regIndex s.hostPort.hAddr ≠ 0) :
    step s = .next (s.edge.regWrite s.completes s.hostPort.hAddr s.hostPort.hWdata) := by
  rw [step_of_no_offer hr ((offered_eq_none_iff s).2 (.inr hi)), State.plainEdge, if_pos hw]

theorem State.regWrite_color {off : BitVec 5} (h : regIndex off = 3) (set : Bool) (v : Word) (s : State) :
    s.regWrite set off v = s.writeColor v := by
  simp [State.regWrite, h]

theorem State.regWrite_ie {off : BitVec 5} (h : regIndex off = 5) (set : Bool) (v : Word) (s : State) :
    s.regWrite set off v = s.writeIe v := by
  simp [State.regWrite, h]

/-- OW_DATA, SLOTS and the reserved offsets ignore a write (R35, R37, R66). -/
theorem State.regWrite_ignored {off : BitVec 5} (h : regIndex off ∈ [2, 4, 6, 7]) (set : Bool) (v : Word) (s : State) :
    s.regWrite set off v = s := by
  simp only [List.mem_cons, List.not_mem_nil, or_false] at h
  rcases h with h | h | h | h <;> simp [State.regWrite, h]

/-- Only a write to STATUS reaches DONE (R29). -/
theorem State.regWrite_done (set : Bool) (off : BitVec 5) (v : Word) (s : State) :
    (s.regWrite set off v).done = if regIndex off = 1 then w1c s.done (v.getLsbD 1) set else s.done := by
  unfold State.regWrite
  split <;> simp_all [State.writeStatus]

/-- COLOR reads back what was written to it (R36, R63). -/
theorem State.writeColor_regRead (v : Word) (s : State) : (s.writeColor v).regRead 0x0C#5 = v := by
  change v.extractLsb' 16 16 ++ v.extractLsb' 0 16 = v
  rw [BitVec.extractLsb'_append_extractLsb'_eq_extractLsb' (by rfl)]
  exact BitVec.extractLsb'_eq_self

/-- IE reads back the two bits it has (R38, R63). -/
theorem State.writeIe_regRead (v : Word) (s : State) : (s.writeIe v).regRead 0x14#5 = v &&& 0x3#32 := by
  change (BitVec.ofBool (v.getLsbD 1) ++ BitVec.ofBool (v.getLsbD 0)).setWidth 32 = v &&& 0x3#32
  apply BitVec.eq_of_getLsbD_eq
  intro j hj
  rw [BitVec.getLsbD_setWidth, BitVec.getLsbD_append, BitVec.getLsbD_and]
  match j, hj with
  | 0, _ => simp
  | 1, _ => simp
  | j + 2, hj => simp [BitVec.getLsbD_ofNat, Nat.testBit_succ]

/-- Settles O8: such a write is the edge and then its fields' update, and without the strobe the edge is all there is. -/
theorem colorAndIeWritesStore : Obligations.ColorAndIeWritesStore := by
  unfold Obligations.ColorAndIeWritesStore
  intro s hr hw
  refine ⟨s.edge, step_without_write hr, fun hi => ?_, fun hi => ?_⟩
  · have h3 : regIndex s.hostPort.hAddr = 3 := hi
    rw [step_of_register_write hr hw (by omega), State.regWrite_color h3]
    exact ⟨_, rfl, State.writeColor_regRead _ _, rfl⟩
  · have h5 : regIndex s.hostPort.hAddr = 5 := hi
    rw [step_of_register_write hr hw (by omega), State.regWrite_ie h5]
    exact ⟨_, rfl, State.writeIe_regRead _ _, rfl⟩

/-- Settles O10: at a reset edge no write counts, and at any other `RegWrite` ignores these. -/
theorem readOnlyAndReservedWritesIgnored : Obligations.ReadOnlyAndReservedWritesIgnored := by
  unfold Obligations.ReadOnlyAndReservedWritesIgnored
  intro s hw hi
  have hidx : regIndex s.hostPort.hAddr ∈ [2, 4, 6, 7] := hi
  cases hr : s.hostPort.rst with
  | true =>
    rw [step_of_reset hr, step_of_reset (by simpa using hr), State.resetEdge, State.resetEdge, State.withHost_env_advance]
    rfl
  | false =>
    have h0 : regIndex s.hostPort.hAddr ≠ 0 := fun h => by simp [h] at hidx
    rw [step_of_register_write hr hw h0, step_without_write hr, State.regWrite_ignored hidx]

/-! ### BUSY and DONE (R28, R29) -/

/-- DONE after a step without reset: a completion sets it, and else the host's write of 1 to it clears it (R29, R65). -/
theorem step_done (hr : s.hostPort.rst = false) (h : step s = .next t) :
    t.done = (s.completes || (s.done &&
      !(s.hostPort.hWr && decide (regIndex s.hostPort.hAddr = 1) && s.hostPort.hWdata.getLsbD 1))) := by
  obtain ⟨-, hd⟩ := s.edge_busy_done
  have hcmd : ∀ w, s.offered = some w → regIndex s.hostPort.hAddr ≠ 1 := fun w ho => by
    obtain ⟨-, hi, -⟩ := (offered_eq_some_iff s w).1 ho
    omega
  rcases step_kinds h with ⟨h1, -⟩ | ⟨-, -, rfl⟩ | ⟨-, w, c, ho, -, rfl⟩ |
    ⟨-, -, w, i, ho, -, ⟨arg, wave, -, rfl, -⟩ | ⟨arg, slot, ops, -, rfl, -⟩⟩
  · rw [hr] at h1; cases h1
  · unfold State.plainEdge
    cases hw : s.hostPort.hWr with
    | false => simp only [Bool.false_eq_true, if_false, hd]; cases s.done <;> simp
    | true =>
      simp only [if_true, State.regWrite_done, hd, w1c]
      by_cases hi : regIndex s.hostPort.hAddr = 1 <;> cases s.completes <;> cases s.done <;> simp [hi]
  all_goals simp [hd, hcmd w ho, -State.edge_done, Bool.or_comm]

/-- BUSY after a step without reset: a command is accepted at an idle block, or none is offered that an idle block would
accept and BUSY falls exactly at a completion (R28, R171). -/
theorem step_busy (hr : s.hostPort.rst = false) (h : step s = .next t) :
    (s.busy = false ∧ t.busy = true ∧ ∃ w i, s.offered = some w ∧ decode w = .command i) ∨
    (t.busy = (s.busy && !s.completes) ∧
      (s.busy = false → ¬ ∃ w i, s.offered = some w ∧ decode w = .command i)) := by
  obtain ⟨hb, -⟩ := s.edge_busy_done
  rcases step_kinds h with ⟨h1, -⟩ | ⟨-, ho, rfl⟩ | ⟨-, w, c, ho, hc, rfl⟩ |
    ⟨-, hidle, w, i, ho, hd, ⟨arg, wave, -, rfl, -⟩ | ⟨arg, slot, ops, -, rfl, -⟩⟩
  · rw [hr] at h1; cases h1
  · refine .inr ⟨?_, by simp [ho]⟩
    rw [State.busy_congr (s := s.edge) (by rw [(plainEdge_sameCore s).seq]), hb]
  · refine .inr ⟨by rw [State.cmdError_busy, hb], ?_⟩
    rintro hidle ⟨w', i, ho', hd⟩
    obtain rfl : w = w' := Option.some.inj (ho.symm.trans ho')
    simp [hidle, hd] at hc
  · exact .inl ⟨hidle, acceptOw_busy _ _ _ _, w, i, ho, hd⟩
  · exact .inl ⟨hidle, acceptDsr_busy _ _ _ _ _, w, i, ho, hd⟩

/-- Settles O44, from what a step makes of BUSY and of DONE. -/
theorem busyAndDoneTransitions : Obligations.BusyAndDoneTransitions := by
  unfold Obligations.BusyAndDoneTransitions
  intro s t hr h
  have hdone := step_done hr h
  refine ⟨fun hc => ?_, fun hc hb => ?_, fun hb => ?_, fun h0 h1 => ?_, fun h1 h0 => ?_⟩
  · have hb := State.busy_of_completes hc
    refine ⟨hb, ?_, by simp [hdone, hc]⟩
    rcases step_busy hr h with ⟨hidle, -⟩ | ⟨ht, -⟩
    · rw [hb] at hidle; cases hidle
    · simp [ht, hc]
  · rcases step_busy hr h with ⟨hidle, -⟩ | ⟨ht, -⟩
    · rw [hb] at hidle; cases hidle
    · simp [ht, hb, hc]
  · rcases step_busy hr h with ⟨-, ht, hcmd⟩ | ⟨ht, hno⟩
    · exact ⟨fun _ => hcmd, fun _ => ht⟩
    · refine ⟨fun hbt => ?_, fun hcmd => absurd hcmd (hno hb)⟩
      rw [ht, hb] at hbt; cases hbt
  · simpa [hdone, h0] using h1
  · rw [hdone, h1] at h0
    have hi : regIndex s.hostPort.hAddr = s.hostPort.hAddr.toNat / 4 := rfl
    cases hc : s.completes <;> simp_all

/-! ### The results of the OW unit (R32, R33, R35) -/

/-- The completion of an OW command writes its results, and no other edge writes one. -/
theorem State.advance_results (s : State) :
    (s.advance.rdata = s.rdata ∨
      s.seq.mode = .owRun ∧ s.completes = true ∧ (s.lat.op = 0x3#4 ∨ s.lat.op = 0x4#4)) ∧
    (s.advance.presence = s.presence ∧ s.advance.presValid = s.presValid ∨
      s.seq.mode = .owRun ∧ s.completes = true ∧ (s.lat.op = 0x1#4 ∨ s.lat.op = 0x4#4) ∧ s.advance.presValid = true) := by
  cases hc : s.completes with
  | false =>
    obtain ⟨-, -, hrd, hp, hv, -⟩ := State.advance_of_not_completes hc
    exact ⟨.inl hrd, .inl ⟨hp, hv⟩⟩
  | true =>
    unfold State.advance
    cases hm : s.seq.mode with
    | idle => simp
    | dsrRun => simp
    | owRun =>
      simp only [State.completes, hm, Bool.and_eq_true] at hc
      obtain ⟨hrd, hp, hv⟩ := State.finishOw_results (s.capture s.currentTag)
      simp only [State.owAdvance, hc, if_true, State.complete_rdata, State.complete_presence, State.complete_presValid,
        hrd, hp, hv, State.capture_lat, State.capture_rdata, State.capture_presence, State.capture_presValid, true_and]
      refine ⟨?_, ?_⟩
      · by_cases hop : s.lat.op = 0x3#4 ∨ s.lat.op = 0x4#4
        · exact .inr hop
        · exact .inl (if_neg hop)
      · by_cases hop : s.lat.op = 0x1#4 ∨ s.lat.op = 0x4#4
        · exact .inr ⟨hop, if_pos hop⟩
        · exact .inl ⟨if_neg hop, if_neg hop⟩

/-- Settles O45: a step leaves what its edge made of the results. -/
theorem owResultsChangeOnlyAtTheirCompletions : Obligations.OwResultsChangeOnlyAtTheirCompletions := by
  unfold Obligations.OwResultsChangeOnlyAtTheirCompletions
  intro s t hr h
  obtain ⟨hrd, hp, hv, -⟩ := step_results hr h
  obtain ⟨hrdata, hpres⟩ := s.advance_results
  rw [State.edge_rdata] at hrd
  rw [State.edge_presence] at hp
  rw [State.edge_presValid] at hv
  rw [hrd, hp, hv]
  refine ⟨fun hne => hrdata.resolve_left hne, fun hne => ?_, fun hset => ?_⟩
  · rcases hpres with ⟨h1, h2⟩ | ⟨hm, hc, hop, -⟩
    · exact absurd hne (by simp [h1, h2])
    · exact ⟨hm, hc, hop⟩
  · rcases hpres with ⟨-, h2⟩ | ⟨-, -, -, h2⟩
    · exact h2.trans hset
    · exact h2

/-! ### The slots (R39) -/

/-- `finishDsr` leaves the state where `lat_op` is no DSR opcode. -/
theorem State.finishDsr_other (h8 : s.lat.op ≠ 0x8#4) (h9 : s.lat.op ≠ 0x9#4) (hA : s.lat.op ≠ 0xA#4) :
    s.finishDsr = s := by
  unfold State.finishDsr
  split
  next h => exact absurd (BitVec.eq_of_toNat_eq h) h8
  next h => exact absurd (BitVec.eq_of_toNat_eq h) h9
  next h => exact absurd (BitVec.eq_of_toNat_eq h) hA
  next => rfl

/-- Nor does a render of a digit with no ROM entry change it (R140). -/
theorem State.finishDsr_of_no_rom (hop : s.lat.op = 0x8#4 ∨ s.lat.op = 0x9#4) (hrom : rom (argDigit s.lat.arg) = none) :
    s.finishDsr = s := by
  unfold State.finishDsr
  rcases hop with h | h <;> simp [h, State.finishDsrRenderFirst, State.finishDsrRender, hrom]

/-- What `finishDsr` makes of a slot it changes, told by the latched command (R146 to R148). -/
theorem State.finishDsr_slot {slot : Slot} (h : s.finishDsr.slot slot ≠ s.slot slot) :
    s.lat.op = 0xA#4 ∧ s.finishDsr.slot slot = 0#7 ∨
    (s.lat.op = 0x8#4 ∨ s.lat.op = 0x9#4) ∧ s.lat.slot = slot ∧
      rom (argDigit s.lat.arg) = some (s.finishDsr.slot slot) := by
  by_cases hinv : s.lat.op = 0xA#4
  · refine .inl ⟨hinv, ?_⟩
    rw [State.finishDsr_invalidate hinv]
    cases slot <;> simp
  · by_cases hren : s.lat.op = 0x8#4 ∨ s.lat.op = 0x9#4
    · refine .inr ⟨hren, ?_⟩
      cases hrom : rom (argDigit s.lat.arg) with
      | none => exact absurd (by rw [State.finishDsr_of_no_rom hren hrom]) h
      | some new =>
        rw [State.finishDsr_render hren hrom, State.slot_setSlot] at h ⊢
        by_cases hs : slot = s.lat.slot
        · exact ⟨hs.symm, by rw [if_pos hs]⟩
        · exact absurd (if_neg hs) h
    · rw [not_or] at hren
      exact absurd (by rw [State.finishDsr_other hren.1 hren.2 hinv]) h

/-- Where an edge changes a slot, a DSR command completes and its `finishDsr` makes the change (R154). -/
theorem State.edge_slot {slot : Slot} (h : s.edge.slot slot ≠ s.slot slot) :
    s.seq.mode = .dsrRun ∧ s.completes = true ∧ s.edge.slot slot = s.finishDsr.slot slot := by
  cases hc : s.completes with
  | false =>
    obtain ⟨-, -, -, -, -, hl, hr⟩ := State.advance_of_not_completes hc
    exact absurd (State.slot_congr (a := s.edge) hl hr slot) h
  | true =>
    cases hm : s.seq.mode with
    | idle => simp [State.completes, hm] at hc
    | owRun =>
      refine absurd (State.slot_congr (a := s.edge) ?_ ?_ slot) h <;> simp [State.advance, hm]
    | dsrRun =>
      simp only [State.completes, hm] at hc
      refine ⟨rfl, rfl, State.slot_congr ?_ ?_ slot⟩ <;> simp [State.advance, hm, State.dsrAdvance, hc]

/-- Settles O46: a step leaves what its edge made of the slots. -/
theorem slotsChangeOnlyAtDsrCompletions : Obligations.SlotsChangeOnlyAtDsrCompletions := by
  unfold Obligations.SlotsChangeOnlyAtDsrCompletions
  intro s t slot hr h hne
  obtain ⟨-, -, -, hleft, hright⟩ := step_results hr h
  have ht := State.slot_congr hleft hright slot
  rw [ht] at hne ⊢
  obtain ⟨hm, hc, he⟩ := State.edge_slot hne
  rw [he] at hne ⊢
  exact ⟨hm, hc, State.finishDsr_slot hne⟩

/-! ### CAUSE, the host's registers and the latches (R34, R36, R38, R41) -/

/-- Settles O47: of the kinds of a step, only a rejection writes CAUSE. -/
theorem causeChangesOnlyAtRejections : Obligations.CauseChangesOnlyAtRejections := by
  unfold Obligations.CauseChangesOnlyAtRejections
  intro s t hr h hne
  rcases step_kinds h with ⟨h1, -⟩ | ⟨-, -, rfl⟩ | ⟨-, w, c, ho, hc, rfl⟩ |
    ⟨-, -, w, i, -, -, ⟨arg, wave, -, rfl, -⟩ | ⟨arg, slot, ops, -, rfl, -⟩⟩
  · rw [hr] at h1; cases h1
  · refine absurd ?_ hne
    unfold State.plainEdge
    split <;> simp
  · refine ⟨w, ho, ?_⟩
    rcases hc with ⟨hb, rfl⟩ | ⟨hb, hd⟩
    · exact .inl ⟨hb, State.cmdError_cause _ _⟩
    · exact .inr ⟨hb, c, hd⟩
  · exact absurd (by simp) hne
  · exact absurd (by simp) hne

/-- Settles O48: without a host write the step is the edge alone. -/
theorem hostRegistersChangeOnlyByHostWrites : Obligations.HostRegistersChangeOnlyByHostWrites := by
  unfold Obligations.HostRegistersChangeOnlyByHostWrites
  intro s t hr hw h
  have hedge : s.plainEdge = s.edge := by simp [State.plainEdge, hw]
  rw [step_of_no_offer hr ((offered_eq_none_iff s).2 (.inl hw)), hedge] at h
  cases h
  simp

/-- Settles O49: the latches of a busy block are those its edge leaves, and an edge has none to change. -/
theorem latchedOperandsHoldWhileBusy : Obligations.LatchedOperandsHoldWhileBusy := by
  unfold Obligations.LatchedOperandsHoldWhileBusy
  intro s t hr hb h
  obtain ⟨t', h', hcore, -⟩ := step_of_busy hr hb
  rw [h] at h'
  cases h'
  rw [hcore.lat, State.edge_lat]

/-! ### The synchronizer (R43) -/

theorem State.syncNext_length (h : s.sync.length = s.params.syncStages) : s.syncNext.length = s.params.syncStages := by
  simp [State.syncNext, h]

/-- A run of `n + 1` edges ends in a step. -/
theorem run_succ_last (h : run (n + 1) s = .next u) : ∃ v, run n s = .next v ∧ step v = .next u := by
  induction n generalizing s with
  | zero =>
    cases hs : step s <;> simp [run, hs] at h
    subst h
    exact ⟨s, rfl, hs⟩
  | succ n ih =>
    cases hs : step s with
    | next v =>
      rw [run_succ_of_step hs] at h
      obtain ⟨w, hw, hstep⟩ := ih h
      exact ⟨w, (run_succ_of_step hs).trans hw, hstep⟩
    | fault r => simp [run, hs] at h
    | refused r => simp [run, hs] at h

/-- A run without reset moves the inputs and the synchronizer on and keeps the parameters. -/
theorem run_sync (hnr : s.NoReset n) (h : run n s = .next u) :
    EnvAt s.env n u.env ∧ SyncAt s.env n s.params.syncStages u.sync ∧ u.params = s.params := by
  induction n generalizing u with
  | zero =>
    cases h
    exact ⟨EnvAt.zero _, SyncAt.zero _ _ _, rfl⟩
  | succ n ih =>
    obtain ⟨v, hv, hstep⟩ := run_succ_last h
    obtain ⟨henv, hsync, hparams⟩ := ih (State.NoReset.of_hostAt fun m hm => hnr.hostAt (by omega)) hv
    have hrst : v.hostPort.rst = false := by
      rw [State.hostPort, henv.hostAt]
      exact hnr.hostAt (by omega)
    obtain ⟨hu, hp⟩ := step_sync hrst hstep
    rw [← hparams] at hsync ⊢
    exact ⟨step_env hstep ▸ henv.advance, hu ▸ SyncAt.next henv hsync, hp⟩

/-- Settles O37: `step_sync` for one edge, and `SyncAt` along a run. -/
theorem synchronizerDelaysTheLine : Obligations.SynchronizerDelaysTheLine := by
  unfold Obligations.SynchronizerDelaysTheLine
  refine ⟨fun s t hr h hlen => ?_, fun s t hr h => ?_, fun s u n hS hn hnr h => ?_⟩
  · obtain ⟨hsync, -⟩ := step_sync hr h
    rw [hsync]
    refine ⟨State.syncNext_length hlen, fun i hi => ?_⟩
    rw [State.syncNext, List.getElem?_take, if_pos hi]
    cases i <;> rfl
  · rw [step_of_reset hr] at h
    cases h
    rfl
  · obtain ⟨-, hsync, hparams⟩ := run_sync hnr h
    rw [← hparams] at hS hn hsync ⊢
    exact hsync.sample hS hn

/-! ### Acceptance of an OW command (R41, R113 to R116) -/

/-- The accepted state written out: phase 0 of the waveform starts with its drive and its ticks (R103). -/
theorem State.acceptOw_cons (op : BitVec 4) (arg : BitVec 8) (ph : Phase) (rest : List Phase) (s : State) :
    s.acceptOw op arg (ph :: rest) = { s with
      lat := ⟨op, arg, .left, s.fg, s.bg⟩
      seq := { s.seq with mode := .owRun, wave := ph :: rest, k := 0, t := ph.us * s.params.ticksPerUs }
      owDriveLow := ph.drive } := rfl

/-- A byte's waveform begins with the low phase of bit 0 (R107, R108). -/
theorem writeByteWave_cons (p : Params) (byte : BitVec 8) :
    ∃ rest, writeByteWave p byte = ⟨true, if byte.getLsbD 0 then p.tW1Low else p.tW0Low, .none⟩ :: rest := by
  unfold writeByteWave writeBitWave
  rw [show List.range 8 = 0 :: (List.range 8).tail from rfl, List.flatMap_cons]
  cases byte.getLsbD 0 <;> exact ⟨_, rfl⟩

/-- Settles O16: an offer at an idle block is `acceptOw` of the command's waveform. -/
theorem owCommandsAreAccepted : Obligations.OwCommandsAreAccepted := by
  unfold Obligations.OwCommandsAreAccepted
  intro s hb
  refine ⟨State.offer_idle _ hb, fun byte => (State.offer_idle _ hb).trans ?_, State.offer_idle _ hb,
    State.offer_idle _ hb⟩
  obtain ⟨rest, hwave⟩ := writeByteWave_cons s.params byte
  rw [hwave, State.acceptOw_cons]

/-! ### The state after reset (R45) -/

/-- Settles O39: the eight registers are read one by one. -/
theorem resetStateValues : Obligations.ResetStateValues := by
  unfold Obligations.ResetStateValues
  exact ⟨by decide, rfl, rfl, rfl, rfl, rfl⟩

/-- Settles O41: an idle block with cleared flags and slots has every clause. -/
theorem resetHasTheInvariant : Obligations.ResetHasTheInvariant := by
  unfold Obligations.ResetHasTheInvariant
  have hinv : ∀ (p : Params) (e : Env), p.Ok → (State.resetWith p e).Inv := by
    intro p e hp
    exact ⟨hp, by simp [State.resetWith], by simp [State.resetWith], by simp [State.resetWith], .inl rfl, .inl rfl,
      by simp [State.resetWith], fun _ => ⟨rfl, rfl⟩, fun hm => (nomatch hm), fun hm => (nomatch hm)⟩
  exact ⟨hinv, hinv _ _ (by decide)⟩

/-! ### The emission of an op list (41_renderer.md R145, R154) -/

/-- The port of an op, with XOFF_LEFT or XOFF_RIGHT written out (R23, R143). -/
theorem SegOp.present_eq (p : Params) (o : SegOp) :
    SegOp.present p o = ⟨o.slot, o.seg, o.color, o.erase, if o.slot = .left then p.xoffLeft else p.xoffRight⟩ := by
  unfold SegOp.present slotXoff
  cases o.slot <;> rfl

/-- Settles O30: the emission is `DsrAt.runOps`, and its end `DsrAt.runAll`. -/
theorem dsrCommandEmitsItsOps : Obligations.DsrCommandEmitsItsOps := by
  unfold Obligations.DsrCommandEmitsItsOps
  intro i ops s port hb hops hport
  obtain rfl : port = SegOp.present s.params := funext fun o => (hport o).trans (SegOp.present_eq _ o).symm
  obtain ⟨arg, slot, hexec, -⟩ := exec_of_dsrOps hb hops
  have hat := acceptDsr_at (s := s) i.op arg slot ops
  refine ⟨_, hexec, fun m hnr hm => ?_, fun m hnr hm => ?_⟩
  · rcases hm with hlt | rfl
    · obtain ⟨u, hu, huat, hacc⟩ := hat.runOps m hlt fun j hj => hnr.hostAt hj
      exact ⟨u, hu, huat.busy, huat.seg, hacc⟩
    · exact ⟨_, rfl, hat.busy, hat.seg, rfl⟩
  · obtain ⟨u, hu, hdone, hacc⟩ := hat.runAll m hm fun j hj => hnr.hostAt hj
    exact ⟨u, hu, hdone.busy, hdone.done, hdone.seg, hacc⟩

/-! ### The invariant: the sequencer's part (R42, R101, R145) -/

/-- The clauses of the invariant about the sequencer: its position and outputs are those of its mode. -/
abbrev State.SeqOk (s : State) : Prop :=
  (s.seq.mode = .idle → s.owDriveLow = false ∧ s.seg = none) ∧
  (s.seq.mode = .owRun → s.OwRunOk) ∧
  (s.seq.mode = .dsrRun → s.DsrRunOk)

/-- The clauses are about what `SameCore` compares. -/
theorem State.SeqOk.congr {a b : State} (h : b.SeqOk) (hc : SameCore a b) : a.SeqOk := by
  have hslot : ∀ slot, a.slot slot = b.slot slot := State.slot_congr hc.slotLeft hc.slotRight
  unfold State.SeqOk State.OwRunOk State.DsrRunOk State.latWave State.latOps at *
  rw [hc.seq, hc.lat, hc.params, hc.seg, hc.owDriveLow]
  simpa only [hslot] using h

/-- A completed command leaves the block at rest (R117, R154). -/
theorem State.complete_seqOk (s : State) : s.complete.SeqOk :=
  ⟨fun _ => ⟨rfl, rfl⟩, fun h => (nomatch h), fun h => (nomatch h)⟩

/-- The latched OW command's waveform is that of a command. -/
theorem State.latWave_some {wave : List Phase} (h : s.latWave = some wave) : ∃ i, owWave s.params i = some wave := by
  unfold State.latWave at h
  split at h
  · exact ⟨.owReset, h⟩
  · exact ⟨.owWriteByte s.lat.arg, h⟩
  · exact ⟨.owReadWord, h⟩
  · exact ⟨.owReadTemp, h⟩
  · cases h

/-- `enterPhase` written out where the phase exists (R103). -/
theorem State.enterPhase_some {k : Nat} {ph : Phase} (h : s.seq.wave[k]? = some ph) :
    s.enterPhase k = { s with
      seq := { s.seq with k := k, t := ph.us * s.params.ticksPerUs }
      owDriveLow := ph.drive } := by
  unfold State.enterPhase
  rw [h]

theorem State.capture_wave (tag : Tag) (s : State) : (s.capture tag).seq.wave = s.seq.wave := by
  rw [State.capture_seq]

theorem State.capture_latWave (tag : Tag) (s : State) : (s.capture tag).latWave = s.latWave := by
  cases tag <;> rfl

/-- Entering a phase of the latched command's waveform gives a legal position. -/
theorem State.enterPhase_seqOk {k : Nat} {ph : Phase} (hp : s.params.Ok) (hm : s.seq.mode = .owRun) (hseg : s.seg = none)
    (hlat : s.latWave = some s.seq.wave) (hk : s.seq.wave[k]? = some ph) : (s.enterPhase k).SeqOk := by
  obtain ⟨i, hw⟩ := State.latWave_some hlat
  have hpos := owWave_ticks_pos hp hw ph (List.mem_of_getElem? hk)
  have hlen := (List.getElem?_eq_some_iff.1 hk).1
  rw [State.enterPhase_some hk]
  refine ⟨by simp [hm], fun _ => ⟨hseg, hlat, hlen, hpos, fun q hq => ?_⟩, by simp [hm]⟩
  obtain rfl : ph = q := Option.some.inj (hk.symm.trans hq)
  exact ⟨Nat.le_refl _, rfl⟩

/-- An edge in OW_RUN keeps the sequencer's clauses (R103, R117). -/
theorem State.owAdvance_seqOk (hp : s.params.Ok) (hm : s.seq.mode = .owRun) (h : s.OwRunOk) : s.owAdvance.SeqOk := by
  obtain ⟨hseg, hlat, hk, ht, hph⟩ := h
  unfold State.owAdvance
  by_cases hend : s.phaseEnds = true
  · rw [if_pos hend]
    by_cases hlast : s.lastPhase = true
    · simp only [hlast, if_true]
      exact State.complete_seqOk _
    · have hnext : s.seq.k + 1 < s.seq.wave.length := by simpa [State.lastPhase] using hlast
      simp only [hlast]
      refine State.enterPhase_seqOk (ph := s.seq.wave[s.seq.k + 1]) (by simpa using hp) ?_ (by simpa using hseg) ?_ ?_
      · rw [State.capture_mode, hm]
      · rw [State.capture_latWave, State.capture_wave, hlat]
      · rw [State.capture_wave, List.getElem?_eq_getElem hnext]
  · have hgt : 1 < s.seq.t := by simpa [State.phaseEnds] using hend
    rw [if_neg hend]
    refine ⟨by simp [hm], fun _ => ⟨hseg, hlat, hk, by dsimp only; omega, fun ph hq => ?_⟩, by simp [hm]⟩
    obtain ⟨hle, hd⟩ := hph ph hq
    exact ⟨by dsimp only; omega, hd⟩

/-- An edge in DSR_RUN keeps the sequencer's clauses (R145, R154). -/
theorem State.dsrAdvance_seqOk (hm : s.seq.mode = .dsrRun) (h : s.DsrRunOk) : s.dsrAdvance.SeqOk := by
  unfold State.dsrAdvance
  by_cases hend : s.opsEnd = true
  · rw [if_pos hend]
    exact State.complete_seqOk _
  · rw [if_neg hend]
    obtain ⟨hdrive, hlat, hseg, hj⟩ := h
    by_cases hr : s.segReady = true
    · have hnext : s.seq.j + 1 < s.seq.ops.length := by
        unfold State.opsEnd at hend
        split at hend
        · exact absurd rfl hend
        · simpa [hr] using hend
      rw [if_pos hr]
      exact ⟨by simp [State.presentOp, hm], by simp [State.presentOp, hm], fun _ => ⟨hdrive, hlat, rfl, .inl hnext⟩⟩
    · rw [if_neg hr]
      exact ⟨by simp [hm], by simp [hm], fun _ => ⟨hdrive, hlat, hseg, hj⟩⟩

theorem State.edge_seqOk (hp : s.params.Ok) (h : s.SeqOk) : s.edge.SeqOk := by
  obtain ⟨hidle, how, hdsr⟩ := h
  have hadv : s.advance.SeqOk := by
    unfold State.advance
    cases hm : s.seq.mode with
    | idle => exact ⟨hidle, how, hdsr⟩
    | owRun => exact State.owAdvance_seqOk hp hm (how hm)
    | dsrRun => exact State.dsrAdvance_seqOk hm (hdsr hm)
  exact hadv

/-- A just accepted OW command stands at phase 0 of its waveform (R113 to R116). -/
theorem AcceptsOw.seqOk (h : AcceptsOw s i t) (hp : s.params.Ok) (hseg : s.seg = none) : t.SeqOk := by
  obtain ⟨arg, wave, hw, rfl, harg⟩ := h
  obtain ⟨ph, rest, rfl⟩ := owWave_ne_nil hw
  refine State.enterPhase_seqOk (ph := ph) hp rfl hseg ?_ rfl
  cases i with
  | owWriteByte byte => rw [harg byte rfl]; exact hw
  | owReset => exact hw
  | owReadWord => exact hw
  | owReadTemp => exact hw
  | dsrRenderFirst _ _ => cases hw
  | dsrRender _ _ => cases hw
  | dsrInvalidate => cases hw

/-- A just accepted DSR command offers op 0 of its list (R146 to R148). -/
theorem AcceptsDsr.seqOk (h : AcceptsDsr s i t) (hdrive : s.owDriveLow = false) : t.SeqOk := by
  obtain ⟨arg, slot, ops, ho, rfl, harg⟩ := h
  refine ⟨fun hm => (nomatch hm), fun hm => (nomatch hm), fun _ => ⟨hdrive, ?_, rfl, ?_⟩⟩
  · cases i with
    | dsrRenderFirst slot' digit =>
      obtain ⟨rfl, rfl⟩ := harg slot' digit (.inl rfl)
      rw [← argDigit_digitArg digit] at ho
      exact ho
    | dsrRender slot' digit =>
      obtain ⟨rfl, rfl⟩ := harg slot' digit (.inr rfl)
      rw [← argDigit_digitArg digit] at ho
      exact ho
    | dsrInvalidate => exact ho
    | owReset => cases ho
    | owWriteByte _ => cases ho
    | owReadWord => cases ho
    | owReadTemp => cases ho
  · exact ops.length.eq_zero_or_pos.symm.imp_right List.length_eq_zero_iff.1

/-- Every step keeps the sequencer's clauses. -/
theorem step_seqOk (hp : s.params.Ok) (hs : s.SeqOk) (hr : s.hostPort.rst = false) (h : step s = .next t) : t.SeqOk := by
  have hedge := State.edge_seqOk hp hs
  rcases step_kinds h with ⟨h1, -⟩ | ⟨-, -, rfl⟩ | ⟨-, w, c, -, -, rfl⟩ | ⟨-, hb, w, i, -, -, hacc⟩
  · rw [hr] at h1; cases h1
  · exact hedge.congr (plainEdge_sameCore s)
  · exact hedge.congr (cmdError_sameCore c _)
  · rw [State.busy_eq_false_iff] at hb
    obtain ⟨hdrive, hseg⟩ : s.edge.owDriveLow = false ∧ s.edge.seg = none := hedge.1 (by simp [State.advance, hb])
    rcases hacc with how | hdsr
    · exact how.seqOk (by simpa using hp) hseg
    · exact hdsr.seqOk hdrive

/-! ### The invariant: the error flags and the slots (R34, R39) -/

/-- A host write sets no error flag (R30, R31, R65). -/
theorem State.regWrite_flags (set : Bool) (off : BitVec 5) (v : Word) (s : State) :
    ((s.regWrite set off v).cmdErr = true → s.cmdErr = true) ∧
    ((s.regWrite set off v).overrun = true → s.overrun = true) := by
  have hw1c : ∀ old w : Bool, w1c old w false = true → old = true := by decide
  unfold State.regWrite
  split
  · exact ⟨hw1c _ _, hw1c _ _⟩
  · exact ⟨id, id⟩
  · exact ⟨id, id⟩
  · exact ⟨id, id⟩

theorem causeCode_defined (c : Cause) : (causeCode c).toNat ≤ 4 ∧ causeCode c ≠ 0#4 := by
  cases c <;> decide

/-- A step without reset keeps CAUSE defined, and not NONE while an error flag is set (R172, R175). -/
theorem step_errors (hle : s.cause.toNat ≤ 4) (hne : s.cmdErr = true ∨ s.overrun = true → s.cause ≠ 0#4)
    (hr : s.hostPort.rst = false) (h : step s = .next t) :
    t.cause.toNat ≤ 4 ∧ (t.cmdErr = true ∨ t.overrun = true → t.cause ≠ 0#4) := by
  rcases step_kinds h with ⟨h1, -⟩ | ⟨-, -, rfl⟩ | ⟨-, w, c, -, -, rfl⟩ |
    ⟨-, -, w, i, -, -, ⟨arg, wave, -, rfl, -⟩ | ⟨arg, slot, ops, -, rfl, -⟩⟩
  · rw [hr] at h1; cases h1
  · unfold State.plainEdge
    split
    · obtain ⟨hc, ho⟩ := State.regWrite_flags s.completes s.hostPort.hAddr s.hostPort.hWdata s.edge
      simp only [State.regWrite_cause, State.edge_cause, State.edge_cmdErr, State.edge_overrun] at hc ho ⊢
      exact ⟨hle, fun hf => hne (hf.imp hc ho)⟩
    · simpa using ⟨hle, hne⟩
  · obtain ⟨h4, h0⟩ := causeCode_defined c
    rw [State.cmdError_cause]
    exact ⟨h4, fun _ => h0⟩
  · simpa using ⟨hle, hne⟩
  · simpa using ⟨hle, hne⟩

theorem rom_mem {digit : BitVec 4} {v : Bitmap} (h : rom digit = some v) : v ∈ romTable :=
  List.mem_of_getElem? h

/-- A step without reset keeps a slot legal (R39, R140). -/
theorem step_slotLegal {slot : Slot} (hs : slotLegal (s.slot slot)) (hr : s.hostPort.rst = false) (h : step s = .next t) :
    slotLegal (t.slot slot) := by
  by_cases hne : t.slot slot = s.slot slot
  · rwa [hne]
  · obtain ⟨-, -, hval⟩ := slotsChangeOnlyAtDsrCompletions s t slot hr h hne
    rcases hval with ⟨-, h0⟩ | ⟨-, -, hrom⟩
    · exact .inl h0
    · exact .inr (rom_mem hrom)

/-- A step without reset gives no presence before a reset was done (R33). -/
theorem step_presValid (hs : s.presence = true → s.presValid = true) (hr : s.hostPort.rst = false)
    (h : step s = .next t) : t.presence = true → t.presValid = true := by
  obtain ⟨-, hp, hv, -⟩ := step_results hr h
  rw [hp, hv, State.edge_presence, State.edge_presValid]
  obtain ⟨-, ⟨hp', hv'⟩ | ⟨-, -, -, hv'⟩⟩ := s.advance_results
  · rwa [hp', hv']
  · exact fun _ => hv'

/-- Settles O40: a reset edge gives the reset state, and every other kind of step keeps each clause. -/
theorem stepKeepsTheInvariant : Obligations.StepKeepsTheInvariant := by
  unfold Obligations.StepKeepsTheInvariant
  intro s t ⟨hp, hsync, hcause, herr, hleft, hright, hpres, hseq⟩ h
  cases hr : s.hostPort.rst with
  | true =>
    rw [step_of_reset hr] at h
    cases h
    exact resetHasTheInvariant.1 s.params _ hp
  | false =>
    obtain ⟨hsync', hparams⟩ := step_sync hr h
    obtain ⟨hcause', herr'⟩ := step_errors hcause herr hr h
    refine ⟨hparams ▸ hp, ?_, hcause', herr', step_slotLegal (slot := .left) hleft hr h,
      step_slotLegal (slot := .right) hright hr h, step_presValid hpres hr h, step_seqOk hp hseq hr h⟩
    rw [hsync', hparams, State.syncNext_length hsync]

/-! ### The captures a running OW command still makes (R103, R117) -/

/-- Two values of `rshift` and `pres_tmp` that agree in what the command `op` reports and the phases `rest` do not capture. -/
def CapturesAgree (op : BitVec 4) (rest : List Phase) (a b : Half × Bool) : Prop :=
  (op = 0x3#4 ∨ op = 0x4#4 → ∀ i : Fin 16, (∀ ph ∈ rest, ph.tag ≠ .bit i) → a.1.getLsbD i = b.1.getLsbD i) ∧
  (op = 0x1#4 ∨ op = 0x4#4 → (∀ ph ∈ rest, ph.tag ≠ .presence) → a.2 = b.2)

/-- The capture of the same level settles what its phase captures. -/
theorem CapturesAgree.capture {op : BitVec 4} {ph : Phase} {rest : List Phase} {a b : Half × Bool} (level : Bool)
    (h : CapturesAgree op (ph :: rest) a b) :
    CapturesAgree op rest (captureTag ph.tag level a) (captureTag ph.tag level b) := by
  obtain ⟨hbits, hpres⟩ := h
  refine ⟨fun hop i hrest => ?_, fun hop hrest => ?_⟩
  · have hkeep : ph.tag ≠ .bit i → a.1.getLsbD i = b.1.getLsbD i := fun htag =>
      hbits hop i (by simpa using ⟨htag, hrest⟩)
    cases htag : ph.tag with
    | none => exact hkeep (by simp [htag])
    | presence => exact hkeep (by simp [htag])
    | bit j =>
      simp only [captureTag, setBit_getLsbD _ _ _ _ i.isLt]
      by_cases hij : i.val = j.val
      · rw [if_pos hij, if_pos hij]
      · rw [if_neg hij, if_neg hij]
        exact hkeep (by rw [htag]; rintro ⟨⟩; exact hij rfl)
  · cases htag : ph.tag with
    | presence => rfl
    | none => exact hpres hop (by simpa [htag] using hrest)
    | bit j => exact hpres hop (by simpa [htag] using hrest)

/-- With nothing left to capture, what the command reports agrees. -/
theorem CapturesAgree.of_nil {op : BitVec 4} {a b : Half × Bool} (h : CapturesAgree op [] a b) :
    (op = 0x3#4 ∨ op = 0x4#4 → a.1 = b.1) ∧ (op = 0x1#4 ∨ op = 0x4#4 → a.2 = b.2) :=
  ⟨fun hop => BitVec.eq_of_getLsbD_eq fun i hi => h.1 hop ⟨i, hi⟩ (by simp), fun hop => h.2 hop (by simp)⟩

/-- The end of phase `k` makes its capture, and the phases after it are left. -/
theorem CapturesAgree.next {op : BitVec 4} {a b : Half × Bool}
    (h : CapturesAgree op (s.seq.wave.drop s.seq.k) a b) :
    CapturesAgree op (s.seq.wave.drop (s.seq.k + 1)) (captureTag s.currentTag s.sample a)
      (captureTag s.currentTag s.sample b) := by
  unfold State.currentTag
  by_cases hk : s.seq.k < s.seq.wave.length
  · rw [List.getElem?_eq_getElem hk]
    rw [List.drop_eq_getElem_cons hk] at h
    exact h.capture s.sample
  · rw [List.getElem?_eq_none (by omega), List.drop_eq_nil_of_le (by omega)]
    rwa [List.drop_eq_nil_of_le (by omega)] at h

theorem presence_mem_resetWave (p : Params) : ∃ ph ∈ resetWave p, ph.tag = .presence := by
  simp [resetWave]

theorem bit_mem_readWordWave (p : Params) (j : Fin 16) : ∃ ph ∈ readWordWave p, ph.tag = .bit j := by
  refine ⟨⟨false, p.tRSample, .bit j⟩, ?_, rfl⟩
  simp [readWordWave, readBitWave]

/-- A command's waveform captures all that the command reports (R105, R110, R112), so what was captured before it does not
matter. -/
theorem owWave_capturesAgree {p : Params} {wave : List Phase} (hw : owWave p i = some wave) (a b : Half × Bool) :
    CapturesAgree i.op wave a b := by
  have hmiss : ∀ {tag : Tag} {part : List Phase}, (∃ ph ∈ part, ph.tag = tag) → part ⊆ wave →
      ¬ ∀ ph ∈ wave, ph.tag ≠ tag :=
    fun ⟨ph, hm, ht⟩ hsub hno => hno ph (hsub hm) ht
  refine ⟨fun hop j hno => ?_, fun hop hno => ?_⟩
  · refine absurd hno (hmiss (bit_mem_readWordWave p j) ?_)
    cases i with
    | owReadWord => cases hw; exact List.Subset.refl _
    | owReadTemp => cases hw; exact List.subset_append_right _ _
    | _ => simp [Instr.op] at hop
  · refine absurd hno (hmiss (presence_mem_resetWave p) ?_)
    cases i with
    | owReset => cases hw; exact List.Subset.refl _
    | owReadTemp =>
      cases hw
      intro ph hm
      simp only [readTempWave, List.mem_append]
      tauto
    | _ => simp [Instr.op] at hop

/-! ### The hidden state (R41, R42, U10) -/

/-- The values `lat` and `q` of the hidden state of `s` lead to the same outputs: all that the running command uses agrees. -/
structure HiddenAgree (s : State) (lat : Latched) (q : Sequencer) : Prop where
  owRun : s.seq.mode = .owRun → lat = s.lat ∧ q.wave = s.seq.wave ∧ q.k = s.seq.k ∧ q.t = s.seq.t ∧
    CapturesAgree s.lat.op (s.seq.wave.drop s.seq.k) (s.seq.rshift, s.seq.presTmp) (q.rshift, q.presTmp)
  dsrRun : s.seq.mode = .dsrRun → lat = s.lat ∧ q.ops = s.seq.ops ∧ q.j = s.seq.j

/-- `t` is `s` but for hidden state that leads to the same outputs. -/
def SameButHidden (s t : State) : Prop := ∃ lat q, t = s.withHidden lat q ∧ HiddenAgree s lat q

/-- While the block is idle nothing of the hidden state is used. -/
theorem SameButHidden.of_idle (hm : s.seq.mode = .idle) (lat : Latched) (q : Sequencer) :
    SameButHidden s (s.withHidden lat q) :=
  ⟨lat, q, rfl, by simp [hm], by simp [hm]⟩

theorem State.withHidden_observe (lat : Latched) (q : Sequencer) (s : State) :
    (s.withHidden lat q).observe = s.observe := rfl

theorem State.withHidden_cmdError (c : Cause) (lat : Latched) (q : Sequencer) (s : State) :
    (s.withHidden lat q).cmdError c = (s.cmdError c).withHidden lat q := by
  cases c <;> rfl

theorem State.withHidden_regWrite (set : Bool) (off : BitVec 5) (v : Word) (lat : Latched) (q : Sequencer) (s : State) :
    (s.withHidden lat q).regWrite set off v = (s.regWrite set off v).withHidden lat q := by
  unfold State.regWrite
  split <;> rfl

/-- The sequencer position after a capture of `level` under `tag` (R103). -/
def Sequencer.captured (tag : Tag) (level : Bool) (q : Sequencer) : Sequencer :=
  { q with
    rshift := (captureTag tag level (q.rshift, q.presTmp)).1
    presTmp := (captureTag tag level (q.rshift, q.presTmp)).2 }

theorem State.capture_seq_captured (tag : Tag) (s : State) : (s.capture tag).seq = s.seq.captured tag s.sample :=
  State.capture_seq tag s

theorem State.withHidden_capture (tag : Tag) (lat : Latched) (q : Sequencer) (s : State) :
    (s.withHidden lat q).capture tag = (s.capture tag).withHidden lat (q.captured tag s.sample) := by
  cases tag <;> rfl

theorem State.withHidden_enterPhase {k : Nat} {ph : Phase} {q : Sequencer} (hwave : q.wave = s.seq.wave)
    (hk : s.seq.wave[k]? = some ph) (lat : Latched) :
    (s.withHidden lat q).enterPhase k =
      (s.enterPhase k).withHidden lat { q with k := k, t := ph.us * s.params.ticksPerUs } := by
  rw [State.enterPhase_some hk, State.enterPhase_some (s := s.withHidden lat q) (ph := ph) (hwave ▸ hk)]
  rfl

theorem State.withHidden_finishOw {q : Sequencer}
    (h : CapturesAgree s.lat.op [] (s.seq.rshift, s.seq.presTmp) (q.rshift, q.presTmp)) :
    (s.withHidden s.lat q).finishOw = s.finishOw.withHidden s.lat q := by
  obtain ⟨hbits, hpres⟩ := h.of_nil
  have hop : ∀ {b : BitVec 4}, s.lat.op.toNat = b.toNat → s.lat.op = b := BitVec.eq_of_toNat_eq
  unfold State.finishOw
  rw [show (s.withHidden s.lat q).lat = s.lat from rfl]
  split
  next h1 =>
    have hp : q.presTmp = s.seq.presTmp := (hpres (.inl (hop h1))).symm
    simp only [State.finishOwReset, State.withHidden, hp]
  next => rfl
  next h3 =>
    have hb : q.rshift = s.seq.rshift := (hbits (.inl (hop h3))).symm
    simp only [State.finishOwReadWord, State.withHidden, hb]
  next h4 =>
    have hp : q.presTmp = s.seq.presTmp := (hpres (.inr (hop h4))).symm
    have hb : q.rshift = s.seq.rshift := (hbits (.inr (hop h4))).symm
    simp only [State.finishOwReadTemp, State.withHidden, hb, hp]
  next => rfl

theorem State.withHidden_setSlot (slot : Slot) (v : Bitmap) (lat : Latched) (q : Sequencer) (s : State) :
    (s.withHidden lat q).setSlot slot v = (s.setSlot slot v).withHidden lat q := by
  cases slot <;> rfl

theorem State.withHidden_finishDsr (q : Sequencer) (s : State) :
    (s.withHidden s.lat q).finishDsr = s.finishDsr.withHidden s.lat q := by
  by_cases hA : s.lat.op = 0xA#4
  · rw [State.finishDsr_invalidate hA, State.finishDsr_invalidate (s := s.withHidden s.lat q) hA]
    rfl
  · by_cases hren : s.lat.op = 0x8#4 ∨ s.lat.op = 0x9#4
    · cases hrom : rom (argDigit s.lat.arg) with
      | some new =>
        rw [State.finishDsr_render hren hrom, State.finishDsr_render (s := s.withHidden s.lat q) hren hrom]
        exact State.withHidden_setSlot _ _ _ _ _
      | none =>
        rw [State.finishDsr_of_no_rom hren hrom, State.finishDsr_of_no_rom (s := s.withHidden s.lat q) hren hrom]
    · rw [not_or] at hren
      rw [State.finishDsr_other hren.1 hren.2 hA, State.finishDsr_other (s := s.withHidden s.lat q) hren.1 hren.2 hA]

/-! ### Steps keep hidden state hidden -/

theorem HiddenAgree.phase_eq {lat : Latched} {q : Sequencer} (h : HiddenAgree s lat q) (hm : s.seq.mode = .owRun) :
    (s.withHidden lat q).phaseEnds = s.phaseEnds ∧ (s.withHidden lat q).lastPhase = s.lastPhase := by
  obtain ⟨-, hwave, hk, ht, -⟩ := h.owRun hm
  simp [State.phaseEnds, State.lastPhase, State.withHidden, hwave, hk, ht]

theorem HiddenAgree.opsEnd_eq {lat : Latched} {q : Sequencer} (h : HiddenAgree s lat q) (hm : s.seq.mode = .dsrRun) :
    (s.withHidden lat q).opsEnd = s.opsEnd := by
  obtain ⟨-, hops, hj⟩ := h.dsrRun hm
  simp [State.opsEnd, State.withHidden, hops, hj, State.segReady]

theorem HiddenAgree.completes_eq {lat : Latched} {q : Sequencer} (h : HiddenAgree s lat q) :
    (s.withHidden lat q).completes = s.completes := by
  unfold State.completes
  rw [show (s.withHidden lat q).seq.mode = s.seq.mode from rfl]
  cases hm : s.seq.mode with
  | idle => rfl
  | owRun =>
    obtain ⟨hend, hlast⟩ := h.phase_eq hm
    simp only [hend, hlast]
  | dsrRun => exact h.opsEnd_eq hm

theorem SameButHidden.complete (lat : Latched) (q : Sequencer) (s : State) :
    SameButHidden s.complete (s.withHidden lat q).complete :=
  SameButHidden.of_idle rfl lat q

theorem SameButHidden.cmdError (c : Cause) (h : SameButHidden s t) : SameButHidden (s.cmdError c) (t.cmdError c) := by
  obtain ⟨lat, q, rfl, how, hdsr⟩ := h
  exact ⟨lat, q, State.withHidden_cmdError c lat q s, by simpa using how, by simpa using hdsr⟩

theorem SameButHidden.regWrite (set : Bool) (off : BitVec 5) (v : Word) (h : SameButHidden s t) :
    SameButHidden (s.regWrite set off v) (t.regWrite set off v) := by
  obtain ⟨lat, q, rfl, how, hdsr⟩ := h
  exact ⟨lat, q, State.withHidden_regWrite set off v lat q s, by simpa using how, by simpa using hdsr⟩

/-- An edge in OW_RUN: what is still to be captured is captured from the same line, and the rest agrees. -/
theorem HiddenAgree.owAdvance {lat : Latched} {q : Sequencer} (h : HiddenAgree s lat q) (hm : s.seq.mode = .owRun) :
    SameButHidden s.owAdvance (s.withHidden lat q).owAdvance := by
  obtain ⟨rfl, hwave, hk, ht, hcap⟩ := h.owRun hm
  obtain ⟨hend, hlast⟩ := h.phase_eq hm
  have htag : (s.withHidden s.lat q).currentTag = s.currentTag := by simp [State.currentTag, State.withHidden, hwave, hk]
  have hcap' := hcap.next
  unfold State.owAdvance
  rw [hend, hlast, htag, State.withHidden_capture, show (s.withHidden s.lat q).seq.k = s.seq.k from hk]
  cases s.phaseEnds with
  | false =>
    refine ⟨s.lat, { q with t := q.t - 1 }, rfl, fun _ => ⟨rfl, hwave, hk, by simp [ht], hcap⟩, by simp [hm]⟩
  | true =>
    cases hl : s.lastPhase with
    | true =>
      have hnil : s.seq.wave.drop (s.seq.k + 1) = [] := List.drop_eq_nil_of_le (by simpa [State.lastPhase] using hl)
      rw [hnil] at hcap'
      have hfin := State.withHidden_finishOw (s := s.capture s.currentTag) (q := q.captured s.currentTag s.sample)
        (by rw [State.capture_lat, State.capture_seq_captured]; exact hcap')
      rw [State.capture_lat] at hfin
      simp only [if_true, hfin]
      exact SameButHidden.complete _ _ _
    | false =>
      have hnext : s.seq.k + 1 < s.seq.wave.length := by simpa [State.lastPhase] using hl
      have hw : (s.capture s.currentTag).seq.wave[s.seq.k + 1]? = some s.seq.wave[s.seq.k + 1] := by
        rw [State.capture_wave, List.getElem?_eq_getElem hnext]
      simp only [if_true, Bool.false_eq_true, if_false]
      rw [State.withHidden_enterPhase (by rw [State.capture_wave]; exact hwave) hw, State.enterPhase_some hw]
      refine ⟨_, _, rfl, fun _ => ⟨by rw [State.capture_lat], by rw [State.capture_wave]; exact hwave, rfl, rfl, ?_⟩,
        by simp [State.capture_mode, hm]⟩
      rw [State.capture_lat, State.capture_seq_captured]
      exact hcap'

theorem HiddenAgree.dsrAdvance {lat : Latched} {q : Sequencer} (h : HiddenAgree s lat q) (hm : s.seq.mode = .dsrRun) :
    SameButHidden s.dsrAdvance (s.withHidden lat q).dsrAdvance := by
  obtain ⟨rfl, hops, hj⟩ := h.dsrRun hm
  have hend := h.opsEnd_eq hm
  unfold State.dsrAdvance
  rw [hend, show (s.withHidden s.lat q).segReady = s.segReady from rfl, State.withHidden_finishDsr,
    show (s.withHidden s.lat q).seq.j = s.seq.j from hj]
  cases s.opsEnd with
  | true => exact SameButHidden.complete _ _ _
  | false =>
    cases s.segReady with
    | true =>
      refine ⟨s.lat, { q with j := s.seq.j + 1 }, ?_, by simp [State.presentOp, hm], fun _ => ⟨rfl, hops, rfl⟩⟩
      simp [State.presentOp, State.withHidden, hops]
    | false => exact ⟨s.lat, q, rfl, h⟩

theorem SameButHidden.edge (h : SameButHidden s t) : SameButHidden s.edge t.edge := by
  obtain ⟨lat, q, rfl, hag⟩ := h
  have hadv : SameButHidden s.advance (s.withHidden lat q).advance := by
    unfold State.advance
    rw [show (s.withHidden lat q).seq.mode = s.seq.mode from rfl]
    cases hm : s.seq.mode with
    | idle => exact ⟨lat, q, rfl, hag⟩
    | owRun => exact hag.owAdvance hm
    | dsrRun => exact hag.dsrAdvance hm
  obtain ⟨lat', q', he, how, hdsr⟩ := hadv
  refine ⟨lat', q', ?_, how, hdsr⟩
  unfold State.edge
  rw [he]
  rfl

theorem SameButHidden.plainEdge (h : SameButHidden s t) : SameButHidden s.plainEdge t.plainEdge := by
  have hedge := h.edge
  obtain ⟨lat, q, rfl, hag⟩ := h
  unfold State.plainEdge
  rw [hag.completes_eq, show (s.withHidden lat q).hostPort = s.hostPort from rfl]
  split
  · exact hedge.regWrite _ _ _
  · exact hedge

/-- Acceptance sets all that the command will use, but for the captures it will make (R41, R42). -/
theorem SameButHidden.acceptOw {wave : List Phase} (arg : BitVec 8) (hw : owWave s.params i = some wave)
    (h : SameButHidden s t) : SameButHidden (s.acceptOw i.op arg wave) (t.acceptOw i.op arg wave) := by
  obtain ⟨lat, q, rfl, -⟩ := h
  have hcap := owWave_capturesAgree hw (s.seq.rshift, s.seq.presTmp) (q.rshift, q.presTmp)
  obtain ⟨ph, rest, rfl⟩ := owWave_ne_nil hw
  refine ⟨(s.acceptOw i.op arg (ph :: rest)).lat,
    { q with wave := ph :: rest, k := 0, t := ph.us * s.params.ticksPerUs }, rfl, fun _ => ⟨rfl, rfl, rfl, rfl, hcap⟩, ?_⟩
  rw [State.acceptOw_cons]
  simp

theorem SameButHidden.acceptDsr (op : BitVec 4) (arg : BitVec 8) (slot : Slot) (ops : List SegOp) (h : SameButHidden s t) :
    SameButHidden (s.acceptDsr op arg slot ops) (t.acceptDsr op arg slot ops) := by
  obtain ⟨lat, q, rfl, -⟩ := h
  exact ⟨_, { q with ops := ops, j := 0 }, rfl, fun hm => (nomatch hm), fun _ => ⟨rfl, rfl, rfl⟩⟩

/-- An offer is accepted by both states or turned away by both (R171). -/
theorem SameButHidden.offer {f g : State → State} (h : SameButHidden s t) (hfg : SameButHidden (f s) (g t)) :
    ∃ s' t', s.offer f = .next s' ∧ t.offer g = .next t' ∧ SameButHidden s' t' := by
  refine ⟨_, _, rfl, rfl, ?_⟩
  have hbusy : t.busy = s.busy := by obtain ⟨lat, q, rfl, -⟩ := h; rfl
  rw [hbusy]
  split
  · exact h.cmdError .overrun
  · exact hfg

theorem SameButHidden.exec (i : Instr) (h : SameButHidden s t) :
    ∃ s' t', Machine.exec i s = .next s' ∧ Machine.exec i t = .next t' ∧ SameButHidden s' t' := by
  have hsame := h
  obtain ⟨lat, q, rfl, -⟩ := h
  cases i with
  | owReset => exact hsame.offer (hsame.acceptOw (i := .owReset) _ rfl)
  | owWriteByte byte => exact hsame.offer (hsame.acceptOw (i := .owWriteByte byte) _ rfl)
  | owReadWord => exact hsame.offer (hsame.acceptOw (i := .owReadWord) _ rfl)
  | owReadTemp => exact hsame.offer (hsame.acceptOw (i := .owReadTemp) _ rfl)
  | dsrRenderFirst slot digit =>
    refine hsame.offer ?_
    unfold State.acceptRenderFirst
    cases rom digit with
    | some new => exact hsame.acceptDsr _ _ _ _
    | none => exact hsame.cmdError _
  | dsrRender slot digit =>
    refine hsame.offer ?_
    unfold State.acceptRender
    cases rom digit with
    | some new => cases slot <;> exact hsame.acceptDsr _ _ _ _
    | none => exact hsame.cmdError _
  | dsrInvalidate => exact hsame.offer (hsame.acceptDsr _ _ _ _)

/-- Every step keeps the relation: the commuting diagram of the simulation. -/
theorem SameButHidden.step (h : SameButHidden s t) :
    ∃ s' t', Machine.step s = .next s' ∧ Machine.step t = .next t' ∧ SameButHidden s' t' := by
  have hsame := h
  obtain ⟨lat, q, rfl, -⟩ := h
  cases hr : s.hostPort.rst with
  | true => exact ⟨_, _, step_of_reset hr, step_of_reset (s := s.withHidden lat q) hr,
      SameButHidden.of_idle (s := s.resetEdge) rfl s.resetEdge.lat s.resetEdge.seq⟩
  | false =>
    cases ho : s.offered with
    | none =>
      exact ⟨_, _, step_of_no_offer hr ho, step_of_no_offer (s := s.withHidden lat q) hr ho, hsame.plainEdge⟩
    | some w =>
      cases hv : s.verdict w with
      | reject c =>
        exact ⟨_, _, step_of_reject hr ho hv, step_of_reject (s := s.withHidden lat q) hr ho hv, hsame.edge.cmdError c⟩
      | command i =>
        rw [step_of_command hr ho hv, step_of_command (s := s.withHidden lat q) hr ho hv]
        exact hsame.edge.exec i

theorem SameButHidden.observations_eq (h : SameButHidden s t) (n : Nat) : observations n t = observations n s := by
  induction n generalizing s t with
  | zero =>
    obtain ⟨lat, q, rfl, -⟩ := h
    rfl
  | succ n ih =>
    obtain ⟨s', t', hs, ht, h'⟩ := h.step
    have hobs : t.observe = s.observe := by obtain ⟨lat, q, rfl, -⟩ := h; exact State.withHidden_observe lat q s
    simp only [observations, hs, ht, ih h', hobs]

/-- Settles O52, by the simulation of `SameButHidden.step`. -/
theorem unspecifiedIdleStateIsNeverObserved : Obligations.UnspecifiedIdleStateIsNeverObserved := by
  unfold Obligations.UnspecifiedIdleStateIsNeverObserved
  intro s lat q n hb
  exact (SameButHidden.of_idle ((State.busy_eq_false_iff s).1 hb) lat q).observations_eq n

end Sys2Proof.Machine
end

/-! PROOFS. The statements of 20_memory.md: what a host read returns (R62, R63), the write-1-to-clear of STATUS (R64, R65), and
COLOR under a running command (R78). -/

namespace Sys2Proof.Machine

variable {s t : State} {c : HostCycle} {fg bg : Half}

/-! ### COLOR while a command runs (R78, 70_reset_and_hazards.md R199) -/

/-- `s` with other colours in COLOR. -/
def State.withColor (fg bg : Half) (s : State) : State := { s with fg := fg, bg := bg }

theorem State.withColor_capture (tag : Tag) (fg bg : Half) (s : State) :
    (s.withColor fg bg).capture tag = (s.capture tag).withColor fg bg := by
  cases tag <;> rfl

theorem State.withColor_enterPhase (k : Nat) (fg bg : Half) (s : State) :
    (s.withColor fg bg).enterPhase k = (s.enterPhase k).withColor fg bg := by
  unfold State.enterPhase
  rw [show (s.withColor fg bg).seq = s.seq from rfl]
  cases s.seq.wave[k]? <;> rfl

theorem State.withColor_finishOw (fg bg : Half) (s : State) :
    (s.withColor fg bg).finishOw = s.finishOw.withColor fg bg := by
  unfold State.finishOw
  rw [show (s.withColor fg bg).lat = s.lat from rfl]
  split <;> rfl

theorem State.withColor_setSlot (slot : Slot) (v : Bitmap) (fg bg : Half) (s : State) :
    (s.withColor fg bg).setSlot slot v = (s.setSlot slot v).withColor fg bg := by
  cases slot <;> rfl

theorem State.withColor_finishDsr (fg bg : Half) (s : State) :
    (s.withColor fg bg).finishDsr = s.finishDsr.withColor fg bg := by
  by_cases hA : s.lat.op = 0xA#4
  · rw [State.finishDsr_invalidate hA, State.finishDsr_invalidate (s := s.withColor fg bg) hA]
    rfl
  · by_cases hren : s.lat.op = 0x8#4 ∨ s.lat.op = 0x9#4
    · cases hrom : rom (argDigit s.lat.arg) with
      | some new =>
        rw [State.finishDsr_render hren hrom, State.finishDsr_render (s := s.withColor fg bg) hren hrom]
        exact State.withColor_setSlot _ _ _ _ _
      | none =>
        rw [State.finishDsr_of_no_rom hren hrom, State.finishDsr_of_no_rom (s := s.withColor fg bg) hren hrom]
    · rw [not_or] at hren
      obtain ⟨h8, h9⟩ := hren
      rw [State.finishDsr_other h8 h9 hA, State.finishDsr_other (s := s.withColor fg bg) h8 h9 hA]

theorem State.withColor_owAdvance (fg bg : Half) (s : State) :
    (s.withColor fg bg).owAdvance = s.owAdvance.withColor fg bg := by
  unfold State.owAdvance
  rw [show (s.withColor fg bg).phaseEnds = s.phaseEnds from rfl, show (s.withColor fg bg).lastPhase = s.lastPhase from rfl,
    show (s.withColor fg bg).currentTag = s.currentTag from rfl, State.withColor_capture]
  dsimp only
  rw [State.withColor_finishOw, State.withColor_enterPhase]
  cases s.phaseEnds <;> cases s.lastPhase <;> rfl

theorem State.withColor_dsrAdvance (fg bg : Half) (s : State) :
    (s.withColor fg bg).dsrAdvance = s.dsrAdvance.withColor fg bg := by
  unfold State.dsrAdvance
  rw [show (s.withColor fg bg).opsEnd = s.opsEnd from rfl, show (s.withColor fg bg).segReady = s.segReady from rfl,
    State.withColor_finishDsr]
  cases s.opsEnd <;> cases s.segReady <;> rfl

/-- The sequencer does not look at COLOR: a running command uses the colours it latched. -/
theorem State.withColor_advance (fg bg : Half) (s : State) :
    (s.withColor fg bg).advance = s.advance.withColor fg bg := by
  unfold State.advance
  rw [show (s.withColor fg bg).seq = s.seq from rfl]
  cases s.seq.mode with
  | idle => rfl
  | owRun => exact State.withColor_owAdvance fg bg s
  | dsrRun => exact State.withColor_dsrAdvance fg bg s

theorem State.withColor_edge (fg bg : Half) (s : State) : (s.withColor fg bg).edge = s.edge.withColor fg bg := by
  unfold State.edge
  rw [State.withColor_advance]
  rfl

theorem State.withColor_cmdError (cause : Cause) (fg bg : Half) (s : State) :
    (s.withColor fg bg).cmdError cause = (s.cmdError cause).withColor fg bg := by
  cases cause <;> rfl

/-- `t` is `s` but for what COLOR holds. -/
def SameButColor (s t : State) : Prop := ∃ fg bg, t = s.withColor fg bg

theorem SameButColor.edge (h : SameButColor s t) : SameButColor s.edge t.edge := by
  obtain ⟨fg, bg, rfl⟩ := h
  exact ⟨fg, bg, State.withColor_edge fg bg s⟩

theorem SameButColor.cmdError (cause : Cause) (h : SameButColor s t) :
    SameButColor (s.cmdError cause) (t.cmdError cause) := by
  obtain ⟨fg, bg, rfl⟩ := h
  exact ⟨fg, bg, State.withColor_cmdError cause fg bg s⟩

/-- A write to COLOR makes the colours equal again; any other write leaves both as they are. -/
theorem SameButColor.regWrite (set : Bool) (off : BitVec 5) (v : Word) (h : SameButColor s t) :
    SameButColor (s.regWrite set off v) (t.regWrite set off v) := by
  obtain ⟨fg, bg, rfl⟩ := h
  unfold State.regWrite
  split
  next => exact ⟨fg, bg, rfl⟩
  next => exact ⟨v.extractLsb' 0 16, v.extractLsb' 16 16, rfl⟩
  next => exact ⟨fg, bg, rfl⟩
  next => exact ⟨fg, bg, rfl⟩

theorem SameButColor.plainEdge (h : SameButColor s t) : SameButColor s.plainEdge t.plainEdge := by
  have hedge := h.edge
  obtain ⟨fg, bg, rfl⟩ := h
  unfold State.plainEdge
  rw [show (s.withColor fg bg).completes = s.completes from rfl, show (s.withColor fg bg).hostPort = s.hostPort from rfl]
  split
  · exact hedge.regWrite _ _ _
  · exact hedge

/-- A step of a busy block keeps the relation: it accepts no command, the one thing that would latch COLOR. -/
theorem SameButColor.busy_step (h : SameButColor s t) (hb : s.busy = true) :
    ∃ s' t', step s = .next s' ∧ step t = .next t' ∧ SameButColor s' t' := by
  have hsame := h
  obtain ⟨fg, bg, rfl⟩ := h
  cases hr : s.hostPort.rst with
  | true => exact ⟨_, _, step_of_reset hr, step_of_reset (s := s.withColor fg bg) hr, _, _, rfl⟩
  | false =>
    cases ho : s.offered with
    | none => exact ⟨_, _, step_of_no_offer hr ho, step_of_no_offer (s := s.withColor fg bg) hr ho, hsame.plainEdge⟩
    | some w =>
      have hv : s.verdict w = .reject .overrun := by simp [State.verdict, hb]
      exact ⟨_, _, step_of_reject hr ho hv, step_of_reject (s := s.withColor fg bg) hr ho hv, hsame.edge.cmdError _⟩

/-- Settles O51, by the step of two busy states that are the same but for COLOR. -/
theorem colorWritesDoNotReachARunningCommand : Obligations.ColorWritesDoNotReachARunningCommand := by
  unfold Obligations.ColorWritesDoNotReachARunningCommand
  intro s fg bg hb
  have hsame : SameButColor s (s.withColor fg bg) := ⟨fg, bg, rfl⟩
  obtain ⟨t, _, hs, ht, fg', bg', rfl⟩ := hsame.busy_step hb
  exact ⟨t, fg', bg', hs, ht⟩

/-! ### The register an access selects (R62) -/

/-- The register index is the value of `h_addr[4:2]`. -/
theorem regIndex_eq_extractLsb' (off : BitVec 5) : regIndex off = (off.extractLsb' 2 3).toNat := by
  rw [BitVec.extractLsb'_toNat, Nat.shiftRight_eq_div_pow]
  unfold regIndex
  omega

theorem State.regRead_congr {a b : BitVec 5} (h : regIndex a = regIndex b) (s : State) : s.regRead a = s.regRead b := by
  unfold State.regRead
  rw [h]

theorem State.regWrite_congr {a b : BitVec 5} (h : regIndex a = regIndex b) (set : Bool) (v : Word) (s : State) :
    s.regWrite set a v = s.regWrite set b v := by
  unfold State.regWrite
  rw [h]

/-- What a step takes from the host port is `rst`, the write strobe, the register selected and the word written: neither the
read strobe nor `h_addr[1:0]`. -/
theorem step_withHost_congr (hr : c.rst = s.hostPort.rst) (hw : c.hWr = s.hostPort.hWr)
    (ha : regIndex c.hAddr = regIndex s.hostPort.hAddr) (hd : c.hWdata = s.hostPort.hWdata) :
    step (s.withHost c) = step s := by
  have hoff : (s.withHost c).offered = s.offered := by simp [State.offered, hw, ha, hd]
  have hplain : (s.withHost c).plainEdge = s.plainEdge := by simp [State.plainEdge, hw, hd, State.regWrite_congr ha]
  have hverdict : (s.withHost c).verdict = s.verdict := rfl
  have hreset : (s.withHost c).resetEdge = s.resetEdge := by simp [State.resetEdge]
  simp only [step, State.withHost_hostPort, State.withHost_edge, hr, hoff, hplain, hverdict, hreset]

/-- Settles O7: reads and steps see an address by the register it selects. -/
theorem lowAddressBitsAreIgnored : Obligations.LowAddressBitsAreIgnored := by
  unfold Obligations.LowAddressBitsAreIgnored
  intro s a b hab
  have hidx : regIndex a = regIndex b := by rw [regIndex_eq_extractLsb', regIndex_eq_extractLsb', hab]
  refine ⟨s.regRead_congr hidx, ?_⟩
  exact step_withHost_congr (s := s.withHost { s.hostPort with hAddr := b }) (c := { s.hostPort with hAddr := a })
    (by simp) (by simp) (by simpa using hidx) (by simp)

/-! ### The fields of the registers (R63) -/

/-- The bits above the value are 0: the reserved bits at the top of a register. -/
theorem extractLsb'_setWidth_of_ge {n m start len : Nat} (x : BitVec n) (h : n ≤ start) :
    (x.setWidth m).extractLsb' start len = 0#len := by
  ext i hi
  simp [BitVec.getLsbD_of_ge x (start + i) (by omega)]

theorem State.statusWord_bits (s : State) :
    s.statusWord.getLsbD 0 = s.busy ∧ s.statusWord.getLsbD 1 = s.done ∧ s.statusWord.getLsbD 2 = s.cmdErr ∧
    s.statusWord.getLsbD 3 = s.overrun ∧ s.statusWord.getLsbD 4 = s.presence ∧ s.statusWord.getLsbD 5 = s.presValid := by
  simp only [State.statusWord, BitVec.getLsbD_setWidth, BitVec.getLsbD_append]
  simp

theorem State.statusWord_fields (s : State) :
    s.statusWord.extractLsb' 6 2 = 0#2 ∧ s.statusWord.extractLsb' 8 4 = s.cause ∧
    s.statusWord.extractLsb' 12 20 = 0#20 := by
  unfold State.statusWord
  refine ⟨?_, ?_, extractLsb'_setWidth_of_ge _ (by decide)⟩
  · rw [BitVec.extractLsb'_setWidth_of_le (by decide)]
    simp (disch := decide) only [BitVec.extractLsb'_append_eq_of_le]
    exact BitVec.extractLsb'_append_eq_right
  · rw [BitVec.extractLsb'_setWidth_of_le (by decide)]
    simp (disch := decide) only [BitVec.extractLsb'_append_eq_of_le]
    exact BitVec.extractLsb'_eq_self

theorem State.owDataWord_fields (s : State) :
    (s.rdata.setWidth 32).extractLsb' 0 16 = s.rdata ∧ (s.rdata.setWidth 32).extractLsb' 16 16 = 0#16 := by
  refine ⟨?_, extractLsb'_setWidth_of_ge _ (by decide)⟩
  rw [BitVec.extractLsb'_setWidth_of_le (by decide)]
  exact BitVec.extractLsb'_eq_self

theorem State.colorWord_fields (s : State) :
    s.colorWord.extractLsb' 0 16 = s.fg ∧ s.colorWord.extractLsb' 16 16 = s.bg :=
  ⟨BitVec.extractLsb'_append_eq_right, BitVec.extractLsb'_append_eq_left⟩

theorem State.slotsWord_fields (s : State) :
    s.slotsWord.extractLsb' 0 7 = s.slotLeft ∧ s.slotsWord.getLsbD 7 = false ∧
    s.slotsWord.extractLsb' 8 7 = s.slotRight ∧ s.slotsWord.extractLsb' 15 17 = 0#17 := by
  unfold State.slotsWord
  refine ⟨?_, ?_, ?_, extractLsb'_setWidth_of_ge _ (by decide)⟩
  · rw [BitVec.extractLsb'_setWidth_of_le (by decide)]
    exact BitVec.extractLsb'_append_eq_right
  · simp only [BitVec.getLsbD_setWidth, BitVec.getLsbD_append]
    simp
  · rw [BitVec.extractLsb'_setWidth_of_le (by decide)]
    simp (disch := decide) only [BitVec.extractLsb'_append_eq_of_le]
    exact BitVec.extractLsb'_eq_self

theorem State.ieWord_fields (s : State) :
    s.ieWord.getLsbD 0 = s.doneIe ∧ s.ieWord.getLsbD 1 = s.errIe ∧ s.ieWord.extractLsb' 2 30 = 0#30 := by
  unfold State.ieWord
  refine ⟨?_, ?_, extractLsb'_setWidth_of_ge _ (by decide)⟩
  all_goals
    simp only [BitVec.getLsbD_setWidth, BitVec.getLsbD_append]
    simp

/-- Settles O6: each register's fields stand in its word as R63 places them, and a step does not look at the read strobe. -/
theorem registerReadReturnsItsFields : Obligations.RegisterReadReturnsItsFields := by
  unfold Obligations.RegisterReadReturnsItsFields
  refine ⟨fun s hrd => by simp [State.hRdata, hrd], fun s rd => step_withHost_congr rfl rfl rfl rfl, fun s off => ?_⟩
  rw [show off.toNat / 4 = regIndex off from rfl]
  refine ⟨fun h => ?cmd, fun h => ?status, fun h => ?owData, fun h => ?color, fun h => ?slots, fun h => ?ie, fun h => ?reserved⟩
  case cmd => simp only [State.regRead, h]
  case status =>
    obtain ⟨hbusy, hdone, hcmdErr, hoverrun, hpresence, hpresValid⟩ := s.statusWord_bits
    simp only [State.regRead, h]
    exact ⟨hbusy, hdone, hcmdErr, hoverrun, hpresence, hpresValid, s.statusWord_fields⟩
  case owData => simpa only [State.regRead, h] using s.owDataWord_fields
  case color => simpa only [State.regRead, h] using s.colorWord_fields
  case slots => simpa only [State.regRead, h] using s.slotsWord_fields
  case ie => simpa only [State.regRead, h] using s.ieWord_fields
  case reserved => rcases h with h | h <;> simp only [State.regRead, h]

/-! ### Write-1-to-clear (R64, R65) -/

theorem State.regWrite_status {off : BitVec 5} (h : regIndex off = 1) (set : Bool) (v : Word) (s : State) :
    s.regWrite set off v = s.writeStatus set v := by
  simp [State.regWrite, h]

/-- A flag that nothing sets at the edge is cleared exactly by a 1. -/
theorem w1c_of_no_set (old written : Bool) : w1c old written false = (old && !written) := by
  cases written <;> simp [w1c]

/-- DONE after the edge of a STATUS write: the completion's set wins over the clear. -/
theorem w1c_edge_done (written : Bool) (s : State) :
    w1c s.edge.done written s.completes = (s.completes || (s.done && !written)) := by
  obtain ⟨-, hdone⟩ := s.edge_busy_done
  rw [hdone]
  cases s.completes with
  | true => simp [w1c]
  | false => simp [w1c_of_no_set]

/-- Settles O9: the write is the edge and then the clearing of the flags, where only DONE can be set at the same edge. -/
theorem statusWriteOneToClear : Obligations.StatusWriteOneToClear := by
  unfold Obligations.StatusWriteOneToClear
  intro s hr hw hi
  have h1 : regIndex s.hostPort.hAddr = 1 := hi
  refine ⟨s.edge, step_without_write hr, ?_⟩
  rw [step_of_register_write hr hw (by omega), State.regWrite_status h1, State.writeStatus, w1c_edge_done, w1c_of_no_set,
    w1c_of_no_set, State.edge_cmdErr, State.edge_overrun]

end Sys2Proof.Machine

/-! PROOFS. The statements of 30_encoding.md: one row lemma says which words decode to a command (R83, R84, R87); the round
trip of decode and encode, the rows of the opcode map and the causes of rejection follow from it. -/

namespace Sys2Proof

variable {w : Word} {i : Instr} {fmt : Format}

/-! ### The rows of the opcode map (R83, R84) -/

/-- The operands of `i` are the fields of `w` (R84). -/
def Instr.OperandsFrom (w : Word) : Instr → Prop
  | .owWriteByte byte => byte = byteField w
  | .dsrRenderFirst slot digit => slot = slotField w ∧ digit = digitField w
  | .dsrRender slot digit => slot = slotField w ∧ digit = digitField w
  | _ => True

/-- The opcode map is fixed by the opcode, the format and the operands of the command. -/
theorem opcodeMap_eq_some_iff :
    opcodeMap w = some (fmt, i) ↔ opField w = i.op ∧ fmt = i.format ∧ i.OperandsFrom w := by
  constructor
  · intro h
    obtain ⟨hop, hfmt, hbyte, hrender⟩ := opcodeMap_some h
    refine ⟨hop.symm, hfmt.symm, ?_⟩
    cases i with
    | owWriteByte byte => exact hbyte byte rfl
    | dsrRenderFirst slot digit => exact hrender slot digit (.inl rfl)
    | dsrRender slot digit => exact hrender slot digit (.inr rfl)
    | _ => trivial
  · rintro ⟨hop, rfl, hoperands⟩
    obtain ⟨h1, h2, h3, h4, h8, h9, h10⟩ := opcodeMap_of_op (w := w)
    cases i with
    | owReset => exact h1 hop
    | owWriteByte byte => obtain rfl := hoperands; exact h2 hop
    | owReadWord => exact h3 hop
    | owReadTemp => exact h4 hop
    | dsrRenderFirst slot digit => obtain ⟨rfl, rfl⟩ := hoperands; exact h8 hop
    | dsrRender slot digit => obtain ⟨rfl, rfl⟩ := hoperands; exact h9 hop
    | dsrInvalidate => exact h10 hop

/-- Every mask holds the opcode bits (R82). -/
theorem Format.mask_low_nibble (fmt : Format) : fmt.mask &&& 0xF#32 = 0xF#32 := by
  cases fmt <;> decide

/-- The digit check of the decoder is the operand check of the command (R87). -/
theorem Instr.OperandsFrom.wellFormed_iff (h : i.OperandsFrom w) :
    i.WellFormed ↔ (i.format = .D → (digitField w).toNat ≤ 9) := by
  cases i with
  | dsrRenderFirst slot digit => obtain ⟨-, rfl⟩ := h; simp [Instr.WellFormed, Instr.wf, Instr.format, digitOk]
  | dsrRender slot digit => obtain ⟨-, rfl⟩ := h; simp [Instr.WellFormed, Instr.wf, Instr.format, digitOk]
  | _ => simp [Instr.WellFormed, Instr.wf, Instr.format]

/-- A word decodes to a command exactly when it matches the command's row under the mask, the operands are its fields, and
the digit is in range (R83, R84, R87). -/
theorem decode_eq_command_iff_row : decode w = .command i ↔
    w &&& i.format.mask = i.op.setWidth 32 ∧ i.OperandsFrom w ∧ i.WellFormed := by
  rw [decode_command]
  constructor
  · rintro ⟨fmt, hmap, hmask, hdigit⟩
    obtain ⟨hop, rfl, hoperands⟩ := opcodeMap_eq_some_iff.1 hmap
    exact ⟨hop ▸ hmask, hoperands, hoperands.wellFormed_iff.2 hdigit⟩
  · rintro ⟨hmask, hoperands, hwf⟩
    have hop : opField w = i.op := op_of_masked i.format.mask_low_nibble hmask
    exact ⟨_, opcodeMap_eq_some_iff.2 ⟨hop, rfl, hoperands⟩, hop ▸ hmask, hoperands.wellFormed_iff.1 hwf⟩

/-! ### The encoder's operands (R84, R90) -/

/-- A command's word matches its row of the opcode map. -/
theorem encode_masked (i : Instr) : encode i &&& i.format.mask = i.op.setWidth 32 := by
  cases i with
  | owReset => exact Laws.RowMatch.owReset
  | owWriteByte byte => exact Laws.RowMatch.owWriteByte byte
  | owReadWord => exact Laws.RowMatch.owReadWord
  | owReadTemp => exact Laws.RowMatch.owReadTemp
  | dsrRenderFirst slot digit => exact Laws.RowMatch.dsrRenderFirst slot digit
  | dsrRender slot digit => exact Laws.RowMatch.dsrRender slot digit
  | dsrInvalidate => exact Laws.RowMatch.dsrInvalidate

theorem byteField_or_shift (op : BitVec 4) (byte : BitVec 8) :
    byteField (op.setWidth 32 ||| byte.setWidth 32 <<< 8) = byte := by
  ext k hk
  have hop : op.getLsbD (8 + k) = false := BitVec.getLsbD_of_ge _ _ (by omega)
  simp [byteField, hop, hk, show 8 + k < 32 by omega]

theorem slotField_or_operandsD (op : BitVec 4) (slot : Slot) (digit : BitVec 4) :
    slotField (op.setWidth 32 ||| operandsD slot digit) = slot := by
  cases slot <;> simp [slotField, operandsD, Slot.ofBit, Slot.bit]

theorem digitField_or_operandsD (op : BitVec 4) (slot : Slot) (digit : BitVec 4) :
    digitField (op.setWidth 32 ||| operandsD slot digit) = digit := by
  ext k hk
  have hop : op.getLsbD (8 + k) = false := BitVec.getLsbD_of_ge _ _ (by omega)
  simp [digitField, operandsD, hop, hk, show 8 + k < 16 by omega, show 8 + k < 32 by omega]

/-- The fields of a command's word are its operands. -/
theorem operandsFrom_encode (i : Instr) : i.OperandsFrom (encode i) := by
  cases i with
  | owWriteByte byte => exact (byteField_or_shift 2#4 byte).symm
  | dsrRenderFirst slot digit =>
    exact ⟨(slotField_or_operandsD 8#4 slot digit).symm, (digitField_or_operandsD 8#4 slot digit).symm⟩
  | dsrRender slot digit =>
    exact ⟨(slotField_or_operandsD 9#4 slot digit).symm, (digitField_or_operandsD 9#4 slot digit).symm⟩
  | _ => trivial

/-- A field put back in place is the word under the field's own mask. -/
theorem shift_field (w : Word) (start len : Nat) :
    (w.extractLsb' start len).setWidth 32 <<< start = w &&& (BitVec.allOnes len).setWidth 32 <<< start := by
  ext k hk
  by_cases h : k < start
  · simp [h]
  · simp [h, hk, Nat.add_sub_cancel' (Nat.le_of_not_lt h), Bool.and_comm]

theorem slotField_bit (w : Word) : (slotField w).bit = w.extractLsb' 16 1 := by
  ext k hk
  obtain rfl : k = 0 := by omega
  cases h : w.getLsbD 16 <;> simp_all [slotField, Slot.ofBit, Slot.bit]

/-- The bits format B leaves free hold the byte. -/
theorem and_not_maskB (w : Word) : w &&& ~~~Format.B.mask = (byteField w).setWidth 32 <<< 8 := by
  rw [byteField, shift_field]; rfl

/-- The bits format D leaves free hold the slot and the digit. -/
theorem and_not_maskD (w : Word) : w &&& ~~~Format.D.mask = operandsD (slotField w) (digitField w) := by
  rw [operandsD, slotField_bit, digitField, shift_field, shift_field, ← BitVec.and_or_distrib_left]; rfl

/-- Encoding puts the operand fields of a word back where they stood. -/
theorem Instr.OperandsFrom.encode_eq (h : i.OperandsFrom w) :
    encode i = i.op.setWidth 32 ||| (w &&& ~~~i.format.mask) := by
  cases i with
  | owWriteByte byte => obtain rfl := h; rw [Instr.format, and_not_maskB]; rfl
  | dsrRenderFirst slot digit => obtain ⟨rfl, rfl⟩ := h; rw [Instr.format, and_not_maskD]; rfl
  | dsrRender slot digit => obtain ⟨rfl, rfl⟩ := h; rw [Instr.format, and_not_maskD]; rfl
  | _ => simp [encode, Instr.op, Instr.format, Format.mask]

/-! ### The round trip (R83, R88) -/

/-- Settles O1: the word of a command matches its row, and its fields are the operands. -/
theorem decodeEncodeRoundTrip : Obligations.DecodeEncodeRoundTrip := by
  unfold Obligations.DecodeEncodeRoundTrip
  intro i hwf
  exact decode_eq_command_iff_row.2 ⟨encode_masked i, operandsFrom_encode i, hwf⟩

/-- Settles O2: the mask fixes one part of the word, the operands the other. -/
theorem decodedWordIsItsEncoding : Obligations.DecodedWordIsItsEncoding := by
  unfold Obligations.DecodedWordIsItsEncoding
  intro w i h
  obtain ⟨hmask, hoperands, hwf⟩ := decode_eq_command_iff_row.1 h
  refine ⟨hwf, ?_⟩
  rw [hoperands.encode_eq, ← hmask, ← BitVec.and_or_distrib_left, BitVec.or_not_self, BitVec.and_allOnes]

/-! ### The opcode map row by row, and the unit of a command (R83) -/

/-- A command of the OW unit, and no other, denotes a waveform: its opcode has bit 3 clear. -/
theorem owWave_isSome (p : Params) (i : Instr) : (Machine.owWave p i).isSome = !i.op.getLsbD 3 := by
  cases i <;> simp [Machine.owWave, Instr.op]

/-- The opcode bits stand in the word as they are. -/
theorem op_getLsbD_of_decode (h : decode w = .command i) (k : Nat) (hk : k < 4) : i.op.getLsbD k = w.getLsbD k := by
  obtain ⟨fmt, hmap, -, -⟩ := decode_command.1 h
  rw [← (opcodeMap_eq_some_iff.1 hmap).1]
  simp [opField, hk]

/-- A command without operands is spelled by one word. -/
theorem decode_formatN (h : i.format = .N) :
    decode w = .command i ↔ w &&& 0xFFFFFFFF#32 = i.op.setWidth 32 := by
  have hfree : i.OperandsFrom w ∧ i.WellFormed := by
    cases i with
    | owWriteByte _ | dsrRenderFirst _ _ | dsrRender _ _ => cases h
    | _ => exact ⟨trivial, rfl⟩
  rw [decode_eq_command_iff_row, h]
  exact and_iff_left hfree

/-- A render is spelled by the words of its row whose digit is in range. -/
theorem decode_formatD {slot : Slot} {digit : BitVec 4} (h : i = .dsrRenderFirst slot digit ∨ i = .dsrRender slot digit) :
    decode w = .command i ↔ w &&& 0xFFFEF0FF#32 = i.op.setWidth 32 ∧ digit = digitField w ∧ digit.toNat ≤ 9 ∧
      slot = slotField w := by
  have hrow : decode w = .command i ↔ w &&& 0xFFFEF0FF#32 = i.op.setWidth 32 ∧
      (slot = slotField w ∧ digit = digitField w) ∧ digitOk digit = true := by
    rcases h with rfl | rfl <;> exact decode_eq_command_iff_row
  rw [hrow, digitOk, decide_eq_true_eq]
  tauto

/-- Settles O3, row by row; bit 3 of the word is bit 3 of the opcode. -/
theorem wordSpellsCommandByMatchAndMask : Obligations.WordSpellsCommandByMatchAndMask := by
  unfold Obligations.WordSpellsCommandByMatchAndMask
  intro w
  refine ⟨decode_formatN rfl, fun byte => ?owWriteByte, decode_formatN rfl, decode_formatN rfl,
    fun slot digit => decode_formatD (.inl rfl), fun slot digit => decode_formatD (.inr rfl), decode_formatN rfl,
    fun p i h => ?unit⟩
  case owWriteByte => exact decode_eq_command_iff_row.trans (and_congr_right' (and_iff_left rfl))
  case unit => rw [owWave_isSome, op_getLsbD_of_decode h 3 (by decide)]

/-! ### The causes of rejection (R85 to R87, R174) -/

/-- The opcodes of R85. -/
def reservedOps : List (BitVec 4) := [0x0#4, 0x5#4, 0x6#4, 0x7#4, 0xB#4, 0xC#4, 0xD#4, 0xE#4, 0xF#4]

theorem Instr.op_not_reserved (i : Instr) : i.op ∉ reservedOps := by
  cases i <;> simp [Instr.op, reservedOps]

theorem opcodeMap_of_reserved (h : opField w ∈ reservedOps) : opcodeMap w = none := by
  cases hmap : opcodeMap w with
  | none => rfl
  | some row => exact absurd ((opcodeMap_eq_some_iff.1 hmap).1 ▸ h) row.2.op_not_reserved

/-- A reserved opcode is rejected before anything else is checked (R85). -/
theorem decode_of_opcodeMap_none (h : opcodeMap w = none) : decode w = .reject .reservedOpcode := by
  rw [decode, h]

/-- A reserved bit that is set is rejected before the digit is checked (R86). -/
theorem decode_reservedField (hmap : opcodeMap w = some (fmt, i)) (hmask : w &&& fmt.mask ≠ (opField w).setWidth 32) :
    decode w = .reject .reservedField := by
  rw [decode_of_op hmap, if_pos hmask]

/-- A word of format D with no reserved bit set is rejected for a digit above 9 (R87). -/
theorem decode_digitRange (hmap : opcodeMap w = some (.D, i)) (hmask : w &&& Format.D.mask = (opField w).setWidth 32)
    (hdigit : 10 ≤ (digitField w).toNat) : decode w = .reject .digitRange := by
  rw [decode_of_op hmap, if_neg (not_not.2 hmask), if_pos ⟨rfl, hdigit⟩]

/-- Settles O4, in the order of the decoder's checks. -/
theorem rejectedWordHasItsCause : Obligations.RejectedWordHasItsCause := by
  unfold Obligations.RejectedWordHasItsCause
  intro w
  obtain ⟨h1, h2, h3, h4, h8, h9, h10⟩ := opcodeMap_of_op (w := w)
  refine ⟨fun hop => ?reservedOpcode, fun row hrow hop hmask => ?reservedField, fun hmask hdigit => ?digitRange⟩
  case reservedOpcode =>
    exact decode_of_opcodeMap_none (opcodeMap_of_reserved hop)
  case reservedField =>
    replace hop : opField w = row.1 := hop
    simp only [List.mem_cons, List.not_mem_nil, or_false] at hrow
    rcases hrow with rfl | rfl | rfl | rfl | rfl | rfl | rfl
    · exact decode_reservedField (h1 hop) (hop ▸ hmask)
    · exact decode_reservedField (h2 hop) (hop ▸ hmask)
    · exact decode_reservedField (h3 hop) (hop ▸ hmask)
    · exact decode_reservedField (h4 hop) (hop ▸ hmask)
    · exact decode_reservedField (h8 hop) (hop ▸ hmask)
    · exact decode_reservedField (h9 hop) (hop ▸ hmask)
    · exact decode_reservedField (h10 hop) (hop ▸ hmask)
  case digitRange =>
    rcases hmask with hmask | hmask
    · have hop : opField w = 8#4 := op_of_masked (by decide) hmask
      exact decode_digitRange (h8 hop) (hop ▸ hmask) hdigit
    · have hop : opField w = 9#4 := op_of_masked (by decide) hmask
      exact decode_digitRange (h9 hop) (hop ▸ hmask) hdigit

/-! ### The host's operations (R90, R91) -/

/-- Settles O53: each operation is one CMD or STATUS write of the word written out. -/
theorem hostNotationWords : Obligations.HostNotationWords := by
  unfold Obligations.HostNotationWords
  exact ⟨rfl, rfl, rfl, rfl, rfl, rfl⟩

end Sys2Proof

/-! PROOFS. The statements of 40_onewire.md: the phases and durations of the waveforms, an OW command's run to its completion
and the results of the four commands, and the idle block. -/

namespace Sys2Proof.Machine

variable {p : Params} {s u : State} {i : Instr} {wave : List Phase} {n : Nat}

/-! ### The phases of a waveform (R105 to R112) -/

/-- In a concatenation of blocks of `m` elements, element `j` of block `i` stands at `m * i + j`. -/
theorem getElem?_flatMap_of_length {α β : Type} {m j : Nat} {l : List α} {f : α → List β} (hf : ∀ x, (f x).length = m)
    (hj : j < m) (i : Nat) : (l.flatMap f)[m * i + j]? = l[i]?.bind fun x => (f x)[j]? := by
  induction l generalizing i with
  | nil => rfl
  | cons x l ih =>
    rw [List.flatMap_cons]
    cases i with
    | zero => rw [List.getElem?_append_left (by rw [hf]; omega)]; simp
    | succ i =>
      rw [List.getElem?_append_right (by rw [hf, Nat.mul_succ]; omega), hf,
        show m * (i + 1) + j - m = m * i + j by rw [Nat.mul_succ]; omega, ih, List.getElem?_cons_succ]

/-- A write slot is a low phase and a released one, whichever bit it writes (R107). -/
theorem writeBitWave_eq (p : Params) (b : Bool) :
    writeBitWave p b =
      [⟨true, if b then p.tW1Low else p.tW0Low, .none⟩, ⟨false, if b then p.tW1Rel else p.tW0Rel, .none⟩] := by
  cases b <;> rfl

theorem writeByteWave_length (p : Params) (b : BitVec 8) : (writeByteWave p b).length = 16 := by
  simp [writeByteWave, writeBitWave_eq, List.length_flatMap]

/-- Bit `i` of a byte is written by phases `2 i` and `2 i + 1` (R108). -/
theorem writeByteWave_slot (p : Params) (b : BitVec 8) {i j : Nat} (hi : i < 8) (hj : j < 2) :
    (writeByteWave p b)[2 * i + j]? = (writeBitWave p (b.getLsbD i))[j]? := by
  rw [writeByteWave, getElem?_flatMap_of_length (fun x => by rw [writeBitWave_eq]; rfl) hj, List.getElem?_range hi]
  rfl

theorem readWordWave_length (p : Params) : (readWordWave p).length = 48 := by
  simp [readWordWave, readBitWave, List.length_flatMap]

/-- Bit `i` of a word is read by phases `3 i` to `3 i + 2` (R110). -/
theorem readWordWave_slot (p : Params) (i : Fin 16) {j : Nat} (hj : j < 3) :
    (readWordWave p)[3 * i.val + j]? = (readBitWave p i)[j]? := by
  rw [readWordWave, getElem?_flatMap_of_length (m := 3) (fun _ => rfl) hj]
  simp

theorem readTempWave_length (p : Params) : (readTempWave p).length = 117 := by
  simp [readTempWave, writeByteWave_length, readWordWave_length, resetWave, convWave]

/-! ### The durations of the waveforms -/

theorem writeByteWave_us (p : Params) (b : BitVec 8) :
    waveUs (writeByteWave p b) =
      ((List.range 8).map fun i => if b.getLsbD i then p.tW1Low + p.tW1Rel else p.tW0Low + p.tW0Rel).sum := by
  rw [writeByteWave, waveUs_flatMap]
  simp only [writeBitWave_us]

theorem readWordWave_us (p : Params) : waveUs (readWordWave p) = 16 * (p.tRLow + p.tRSample + p.tRIdle) := by
  rw [readWordWave, waveUs_flatMap]
  simp only [readBitWave_us, List.map_const', List.length_finRange, List.sum_replicate, smul_eq_mul]

theorem readTempWave_us (p : Params) :
    waveUs (readTempWave p) = 2 * (p.tRstLow + p.tRstWait) + p.tConv + 16 * (p.tRLow + p.tRSample + p.tRIdle) +
      2 * waveUs (writeByteWave p 0xCC#8) + waveUs (writeByteWave p 0x44#8) + waveUs (writeByteWave p 0xBE#8) := by
  have hconv : waveUs (convWave p) = p.tConv := rfl
  simp only [readTempWave, waveUs_append, resetWave_us, readWordWave_us, hconv, skipRom, convertT, readScratchpad]
  omega

/-- Settles O19, waveform by waveform. -/
theorem waveformDurations : Obligations.WaveformDurations := by
  unfold Obligations.WaveformDurations
  intro p
  refine ⟨⟨rfl, resetWave_us p⟩, fun b => ⟨writeByteWave_length p b, fun i hi => ⟨?_, ?_⟩, writeByteWave_us p b⟩,
    ⟨readWordWave_length p, fun i => ⟨?_, ?_, ?_⟩, readWordWave_us p⟩, readTempWave_length p, rfl, readTempWave_us p⟩
  · exact (writeByteWave_slot p b hi (j := 0) (by omega)).trans (by rw [writeBitWave_eq]; rfl)
  · exact (writeByteWave_slot p b hi (j := 1) (by omega)).trans (by rw [writeBitWave_eq]; rfl)
  · exact readWordWave_slot p i (j := 0) (by omega)
  · exact readWordWave_slot p i (j := 1) (by omega)
  · exact readWordWave_slot p i (j := 2) (by omega)

/-- Settles O20: with the defaults a write slot lasts 61 µs whatever the bit. -/
theorem defaultWaveformDurations : Obligations.DefaultWaveformDurations := by
  unfold Obligations.DefaultWaveformDurations
  intro ticks base rects
  have hbyte : ∀ b : BitVec 8, waveUs (writeByteWave (Params.defaults ticks base rects) b) = 488 := fun b => by
    rw [writeByteWave_us]
    simp only [Params.defaults, Nat.reduceAdd, ite_self]
    rfl
  refine ⟨resetWave_us _, hbyte, readWordWave_us _, ?_⟩
  rw [readTempWave_us, hbyte, hbyte, hbyte]
  simp only [Params.defaults]

/-! ### The idle block (R101, R208) -/

/-- Settles O50: without a command the step is a reset, or leaves the sequencer and the outputs of the idle block's edge. -/
theorem idleStaysIdle : Obligations.IdleStaysIdle := by
  unfold Obligations.IdleStaysIdle
  rintro s ⟨-, -, -, -, -, -, -, hidle, -⟩ hb hno
  obtain ⟨hdrive, hseg⟩ := hidle ((State.busy_eq_false_iff s).1 hb)
  have hrest : ∀ t, SameCore t s.edge → t.busy = false ∧ t.owDriveLow = false ∧ t.seg = none := fun t hc => by
    rw [State.edge_of_idle hb] at hc
    exact ⟨(State.busy_congr (congrArg _ hc.seq)).trans hb, hc.owDriveLow.trans hdrive, hc.seg.trans hseg⟩
  cases hr : s.hostPort.rst with
  | true => exact ⟨_, step_of_reset hr, rfl, rfl, rfl⟩
  | false =>
    cases ho : s.offered with
    | none => exact ⟨_, step_of_no_offer hr ho, hrest _ (plainEdge_sameCore s)⟩
    | some w =>
      cases hd : decode w with
      | command i => exact absurd hd (hno w i ho)
      | reject c => exact ⟨_, step_of_reject hr ho (by simp [State.verdict, hb, hd]), hrest _ (cmdError_sameCore c _)⟩

/-! ### What a run without host writes leaves (R64) -/

/-- COLOR, IE, the error flags and CAUSE of `u` are those of `s`. -/
abbrev HostRegistersKept (s u : State) : Prop :=
  u.fg = s.fg ∧ u.bg = s.bg ∧ u.doneIe = s.doneIe ∧ u.errIe = s.errIe ∧ u.cmdErr = s.cmdErr ∧ u.overrun = s.overrun ∧
  u.cause = s.cause

/-- The host writes nothing in this cycle and the `n - 1` after it. -/
abbrev State.NoWrite (n : Nat) (s : State) : Prop := ∀ c ∈ s.env.host.take n, c.hWr = false

/-- The host writes nothing in a cycle that is not listed either (log 1). -/
theorem State.NoWrite.hostAt {m : Nat} (h : s.NoWrite n) (hm : m < n) : (s.env.hostAt m).hWr = false := by
  rw [Env.hostAt, List.getD_eq_getElem?_getD]
  cases hc : s.env.host[m]? with
  | none => rfl
  | some c => exact h c (List.mem_of_getElem? ((List.getElem?_take_of_lt hm).trans hc))

theorem State.NoWrite.mono {m : Nat} (h : s.NoWrite n) (hm : m ≤ n) : s.NoWrite m :=
  fun c hc => h c (List.take_subset_take_left _ hm hc)

theorem State.NoReset.mono {m : Nat} (h : s.NoReset n) (hm : m ≤ n) : s.NoReset m :=
  fun c hc => h c (List.take_subset_take_left _ hm hc)

theorem run_hostRegistersKept (hnr : s.NoReset n) (hnw : s.NoWrite n) (h : run n s = .next u) : HostRegistersKept s u := by
  induction n generalizing u with
  | zero => cases h; exact ⟨rfl, rfl, rfl, rfl, rfl, rfl, rfl⟩
  | succ n ih =>
    obtain ⟨v, hv, hstep⟩ := run_succ_last h
    have hkept := ih (hnr.mono (by omega)) (hnw.mono (by omega)) hv
    obtain ⟨henv, -⟩ := run_sync (hnr.mono (by omega)) hv
    have hport : v.hostPort = s.env.hostAt n := henv.hostAt 0
    have hlast := hostRegistersChangeOnlyByHostWrites v u (hport ▸ hnr.hostAt (by omega)) (hport ▸ hnw.hostAt (by omega)) hstep
    simpa only [HostRegistersKept, hlast] using hkept

/-! ### The run of an OW command (R103, R117) -/

/-- An accepted OW command drives its waveform cycle by cycle and completes at its end, whatever the host does. -/
theorem acceptOw_runs (op : BitVec 4) (arg : BitVec 8) (hp : s.params.Ok) (hw : owWave s.params i = some wave)
    (hnr : s.NoReset (waveTicks s.params wave)) :
    (∀ m < waveTicks s.params wave, ∃ v, run m (s.acceptOw op arg wave) = .next v ∧ v.busy = true ∧
      (driveTrace s.params wave)[m]? = some v.owDriveLow) ∧
    ∃ v, run (waveTicks s.params wave) (s.acceptOw op arg wave) = .next v ∧
      OwDone (s.acceptOw op arg wave) (captureFold s.params s.env 0 wave (s.seq.rshift, s.seq.presTmp)) v := by
  have hpos := owWave_ticks_pos hp hw
  have hsam := owWave_sampleable hp hw
  obtain ⟨first, rest, rfl⟩ := owWave_ne_nil hw
  have hstart := acceptOw_at op arg (s := s) (rest := rest) (hpos first List.mem_cons_self)
  have hrun := hstart.runWave (first :: rest) rfl (by simp) (by simpa using hpos) (by simpa using syncStages_pos hp)
    (by simpa using hsam) (fun m hm => hnr.hostAt (by simpa using hm))
  rw [State.acceptOw_params] at hrun
  obtain ⟨hcycles, hdone⟩ := hrun
  refine ⟨fun m hm => ?_, hdone⟩
  obtain ⟨v, hv, hbusy, hdrive, -⟩ := hcycles m hm
  exact ⟨v, hv, hbusy, hdrive⟩

/-- Settles O21: exec starts the command, and it runs to its completion. -/
theorem owCommandRunsItsWaveform : Obligations.OwCommandRunsItsWaveform := by
  unfold Obligations.OwCommandRunsItsWaveform
  intro i wave s hp hb hw hnr
  obtain ⟨arg, hexec⟩ := exec_of_owWave hb hw
  obtain ⟨hcycles, u, hu, hdone⟩ := acceptOw_runs i.op arg hp hw hnr
  exact ⟨_, hexec, hcycles, u, hu, hdone.busy, hdone.done, hdone.owDriveLow⟩

/-! ### The results of an OW command (R113 to R116) -/

/-- What a completed command leaves depends on the latches, the results and the slots it started from alone. -/
theorem OwDone.congr {z z' : State} {a : Half × Bool} (h : OwDone z a u) (hlat : z.lat = z'.lat) (hrdata : z.rdata = z'.rdata)
    (hpresence : z.presence = z'.presence) (hvalid : z.presValid = z'.presValid) (hleft : z.slotLeft = z'.slotLeft)
    (hright : z.slotRight = z'.slotRight) : OwDone z' a u where
  __ := h
  rdata := hlat ▸ hrdata ▸ h.rdata
  presence := hlat ▸ hpresence ▸ h.presence
  presValid := hlat ▸ hvalid ▸ h.presValid
  slotLeft := h.slotLeft.trans hleft
  slotRight := h.slotRight.trans hright

/-- An OW command runs to its completion and reports what its waveform captures; the results it does not report are those of
`s`, and so are the host's registers if the host writes nothing. -/
theorem owCommand_completes (hp : s.params.Ok) (hb : s.busy = false) (hw : owWave s.params i = some wave)
    (hnr : s.NoReset (waveTicks s.params wave)) :
    ∃ arg t u, exec i s = .next t ∧ run (waveTicks s.params wave) t = .next u ∧
      OwDone (s.latch i.op arg .left) (captureFold s.params s.env 0 wave (s.seq.rshift, s.seq.presTmp)) u ∧
      (s.NoWrite (waveTicks s.params wave) → HostRegistersKept s u) := by
  obtain ⟨arg, hexec⟩ := exec_of_owWave hb hw
  obtain ⟨-, u, hu, hdone⟩ := acceptOw_runs i.op arg hp hw hnr
  refine ⟨arg, _, u, hexec, hu, ?_, fun hnw => ?_⟩
  · exact hdone.congr (by simp) (by simp) (by simp) (by simp) (by simp) (by simp)
  · simpa [HostRegistersKept] using
      run_hostRegistersKept (by simpa [State.NoReset] using hnr) (by simpa [State.NoWrite] using hnw) hu

/-- Settles O22: the one capture of a reset waveform is the presence sample at its end. -/
theorem owResetReportsPresence : Obligations.OwResetReportsPresence := by
  unfold Obligations.OwResetReportsPresence
  intro s hp hb
  rw [← resetWave_us, ← waveTicks]
  intro hnr
  obtain ⟨arg, t, u, hexec, hu, hdone, hkept⟩ := owCommand_completes hp hb (i := .owReset) rfl hnr
  rw [(resetWave_fold hp 0 _).2, Nat.zero_add] at hdone
  exact ⟨t, u, hexec, hu, hdone.presence, hdone.presValid, hdone.busy, hdone.done, hdone.rdata, hdone.slotLeft,
    hdone.slotRight, hkept⟩

/-- Settles O23: the waveform of a byte has no capture. -/
theorem owWriteByteWritesOnlyDone : Obligations.OwWriteByteWritesOnlyDone := by
  unfold Obligations.OwWriteByteWritesOnlyDone
  intro byte s hp hb hnr
  obtain ⟨arg, t, u, hexec, hu, hdone, hkept⟩ := owCommand_completes hp hb (i := .owWriteByte byte) rfl hnr
  rw [(untagged_fold _ (writeByte_untagged s.params byte) 0 _).2] at hdone
  exact ⟨t, u, hexec, hu, hdone.busy, hdone.done, hdone.presence, hdone.presValid, hdone.rdata, hdone.slotLeft,
    hdone.slotRight, hdone.rshift, hdone.presTmp, hkept⟩

/-- Settles O24: every slot of the word captures its own bit. -/
theorem owReadWordAssemblesTheBits : Obligations.OwReadWordAssemblesTheBits := by
  unfold Obligations.OwReadWordAssemblesTheBits
  intro s hp hb
  rw [← readWordWave_us, ← waveTicks]
  intro hnr
  obtain ⟨arg, t, u, hexec, hu, hdone, hkept⟩ := owCommand_completes hp hb (i := .owReadWord) rfl hnr
  obtain ⟨-, -, hbits⟩ := readWordWave_fold (e := s.env) hp 0 (s.seq.rshift, s.seq.presTmp)
  simp only [Nat.zero_add] at hbits
  have hrdata := hdone.rdata.trans (if_pos (.inl rfl))
  exact ⟨t, u, hexec, hu, fun j hj => hrdata ▸ hbits j hj, hdone.busy, hdone.done, hdone.presence, hdone.presValid,
    hdone.slotLeft, hdone.slotRight, hkept⟩

/-- Settles O25: the second reset overwrites the presence sample of the first, and the word is captured last. -/
theorem owReadTempReportsWordAndLastPresence : Obligations.OwReadTempReportsWordAndLastPresence := by
  unfold Obligations.OwReadTempReportsWordAndLastPresence
  intro s w r total hp hb hr hw htotal hnr
  have hus : waveUs (readTempWave s.params) = w + 16 * (s.params.tRLow + s.params.tRSample + s.params.tRIdle) := by
    rw [readTempWave_us]
    omega
  rw [htotal, ← hus, ← waveTicks] at hnr ⊢
  obtain ⟨arg, t, u, hexec, hu, hdone, hkept⟩ := owCommand_completes hp hb (i := .owReadTemp) rfl hnr
  obtain ⟨-, hpres, hbits⟩ := readTempWave_fold (e := s.env) hp (s.seq.rshift, s.seq.presTmp)
  rw [← hr] at hpres hbits
  rw [← hw] at hbits
  have hrdata := hdone.rdata.trans (if_pos (.inr rfl))
  have hpresence := hdone.presence.trans (if_pos (.inr rfl))
  exact ⟨t, u, hexec, hu, fun j hj => hrdata ▸ hbits j hj, hpresence.trans hpres, hdone.presValid, hdone.busy, hdone.done,
    hdone.slotLeft, hdone.slotRight, hkept⟩

end Sys2Proof.Machine

/-! PROOFS. The statements of 41_renderer.md: the segment ROM, the op lists and their display, the acceptance of a DSR command
and its run to completion, however the sink stalls it. -/

namespace Sys2Proof.Machine

variable {s t u : State} {i : Instr} {ops : List SegOp} {m : Nat} {slot slot' : Slot} {old new : Bitmap} {fg bg : Half}
  {d : Display} {seg : BitVec 3}

/-! ### The segment ROM (R140, R141) -/

/-- Settles O26: the table is read digit by digit, and an entry of the ROM is one of the table. -/
theorem romTableOfTheSource : Obligations.RomTableOfTheSource := by
  unfold Obligations.RomTableOfTheSource
  have hnonzero : ∀ v ∈ romTable, v ≠ 0#7 := by decide
  exact ⟨by decide, fun digit v h => hnonzero v (rom_mem h)⟩

/-! ### Canonical order (R142) -/

theorem mem_canonicalBits_iff {j : Nat} : j ∈ canonicalBits ↔ j ≤ 6 := by
  simp only [canonicalBits, List.mem_cons, List.not_mem_nil, or_false]
  omega

theorem segOfBit_toNat (j : Nat) : (segOfBit j).toNat = 6 - j := by
  rw [segOfBit, BitVec.toNat_ofNat, Nat.mod_eq_of_lt (by omega)]

/-- A segment index is that of a bitmap bit, or the 7 that no op carries. -/
theorem eq_segOfBit_iff {j : Nat} (hj : j ∈ canonicalBits) : seg = segOfBit j ↔ seg.toNat ≤ 6 ∧ j = 6 - seg.toNat := by
  rw [mem_canonicalBits_iff] at hj
  rw [← BitVec.toNat_inj, segOfBit_toNat]
  omega

/-- In canonical order the segment indices ascend, A to G. -/
theorem canonicalBits_segments_ascend :
    canonicalBits.Pairwise fun j k => (segOfBit j).toNat < (segOfBit k).toNat := by decide

/-! ### What an op list holds (R144) -/

/-- The op DSR_RENDER emits for bit `j`, where it differs: a draw in `fg` if the new bit is 1, else an erase in `bg`. -/
def renderOp (slot : Slot) (new : Bitmap) (fg bg : Half) (j : Nat) : SegOp :=
  ⟨slot, segOfBit j, if new.getLsbD j then fg else bg, !new.getLsbD j⟩

theorem opsRender_eq_map (slot : Slot) (old new : Bitmap) (fg bg : Half) :
    opsRender slot old new fg bg =
      (canonicalBits.filter fun j => old.getLsbD j != new.getLsbD j).map (renderOp slot new fg bg) := rfl

theorem mem_opsRender_iff {o : SegOp} : o ∈ opsRender slot old new fg bg ↔
    ∃ j ∈ canonicalBits, old.getLsbD j ≠ new.getLsbD j ∧ o = renderOp slot new fg bg j := by
  simp only [opsRender_eq_map, List.mem_map, List.mem_filter, bne_iff_ne, and_assoc, eq_comm (a := o)]

/-- The ops, told by their segment. -/
theorem mem_opsRender_iff_fields {o : SegOp} : o ∈ opsRender slot old new fg bg ↔
    o.slot = slot ∧ o.seg.toNat ≤ 6 ∧ old.getLsbD (6 - o.seg.toNat) ≠ new.getLsbD (6 - o.seg.toNat) ∧
      o.color = (if new.getLsbD (6 - o.seg.toNat) then fg else bg) ∧ o.erase = !new.getLsbD (6 - o.seg.toNat) := by
  rw [mem_opsRender_iff]
  constructor
  · rintro ⟨j, hj, hne, rfl⟩
    obtain ⟨hle, hbit⟩ := (eq_segOfBit_iff hj).1 rfl
    simp only [renderOp, ← hbit]
    exact ⟨trivial, hle, hne, trivial, trivial⟩
  · rintro ⟨rfl, hle, hne, hcolor, herase⟩
    have hj : 6 - o.seg.toNat ∈ canonicalBits := mem_canonicalBits_iff.2 (by omega)
    refine ⟨_, hj, hne, ?_⟩
    rw [renderOp, ← (eq_segOfBit_iff hj).2 ⟨hle, rfl⟩, ← hcolor, ← herase]

/-- The ops come in canonical order, each segment once. -/
theorem opsRender_ordered (slot : Slot) (old new : Bitmap) (fg bg : Half) :
    ((opsRender slot old new fg bg).map fun o => o.seg.toNat).Pairwise (· < ·) := by
  rw [opsRender_eq_map, List.map_map, List.pairwise_map]
  exact canonicalBits_segments_ascend.filter _

theorem opsRender_length (slot : Slot) (old new : Bitmap) (fg bg : Half) :
    (opsRender slot old new fg bg).length = popcount (old ^^^ new) := by
  rw [opsRender_eq_map, List.length_map, popcount]
  congr 2
  funext j
  rw [BitVec.getLsbD_xor, Bool.bne_eq_xor]

/-- Rendering the bitmap a slot holds emits nothing (R151). -/
theorem opsRender_self (slot : Slot) (v : Bitmap) (fg bg : Half) : opsRender slot v v fg bg = [] := by
  rw [← List.length_eq_zero_iff, opsRender_length, BitVec.xor_self]
  rfl

/-- Settles O28: from the sentinel the bits that differ are those that are 1, and each is drawn in FG. -/
theorem renderFromSentinelIsRenderFirst : Obligations.RenderFromSentinelIsRenderFirst := by
  unfold Obligations.RenderFromSentinelIsRenderFirst
  intro slot new fg bg
  have hlit : (fun j => (0#7).getLsbD j != new.getLsbD j) = new.getLsbD := funext fun j => by simp
  rw [opsRender_eq_map, opsFirst, hlit]
  refine List.map_congr_left fun j hj => ?_
  rw [renderOp, (List.mem_filter.1 hj).2]
  rfl

/-- Settles O27: DSR_RENDER_FIRST's list is DSR_RENDER's from the sentinel. -/
theorem opListsHoldTheSegmentsInOrder : Obligations.OpListsHoldTheSegmentsInOrder := by
  unfold Obligations.OpListsHoldTheSegmentsInOrder
  refine ⟨fun slot new fg => ?_, fun slot old new fg bg => ?_, rfl⟩
  · rw [← renderFromSentinelIsRenderFirst slot new fg fg]
    refine ⟨fun o => ?_, opsRender_ordered _ _ _ _ _, by rw [opsRender_length, BitVec.zero_xor]⟩
    rw [mem_opsRender_iff_fields, BitVec.getLsbD_zero, ite_self]
    cases new.getLsbD (6 - o.seg.toNat) <;> simp
  · exact ⟨fun o => mem_opsRender_iff_fields, opsRender_ordered _ _ _ _ _, opsRender_length _ _ _ _ _⟩

/-! ### The display (R153) -/

/-- After a list of ops a segment of the display is untouched, or has the colour of one of the ops that fill it. -/
theorem Display.apply_cases (d : Display) (outs : List SegOut) (slot : Slot) (seg : BitVec 3) :
    ((∀ o ∈ outs, ¬(slot = o.slot ∧ seg = o.index)) ∧ d.apply outs slot seg = d slot seg) ∨
    ∃ o ∈ outs, slot = o.slot ∧ seg = o.index ∧ d.apply outs slot seg = o.color := by
  induction outs generalizing d with
  | nil => exact .inl ⟨by simp, rfl⟩
  | cons o outs ih =>
    rcases ih (d.fill o) with ⟨hno, heq⟩ | ⟨o', ho', hs, hi, heq⟩
    · by_cases ho : slot = o.slot ∧ seg = o.index
      · exact .inr ⟨o, List.mem_cons_self, ho.1, ho.2, heq.trans (if_pos ho)⟩
      · exact .inl ⟨List.forall_mem_cons.2 ⟨ho, hno⟩, heq.trans (if_neg ho)⟩
    · exact .inr ⟨o', List.mem_cons_of_mem _ ho', hs, hi, heq⟩

/-- The display after DSR_RENDER's ops: a segment whose bit differs has the op's colour, and every other is untouched. -/
theorem Display.apply_opsRender_cases (p : Params) (d : Display) (slot : Slot) (old new : Bitmap) (fg bg : Half)
    (slot' : Slot) (seg : BitVec 3) :
    (d.apply ((opsRender slot old new fg bg).map (SegOp.present p)) slot' seg = d slot' seg ∧
      ∀ j ∈ canonicalBits, slot' = slot → seg = segOfBit j → old.getLsbD j = new.getLsbD j) ∨
    ∃ j ∈ canonicalBits, slot' = slot ∧ seg = segOfBit j ∧
      d.apply ((opsRender slot old new fg bg).map (SegOp.present p)) slot' seg = if new.getLsbD j then fg else bg := by
  rcases d.apply_cases ((opsRender slot old new fg bg).map (SegOp.present p)) slot' seg with
    ⟨hno, heq⟩ | ⟨_, ho, hs, hi, heq⟩
  · refine .inl ⟨heq, fun j hj hs hi => by_contra fun hne => ?_⟩
    exact hno _ (List.mem_map_of_mem (mem_opsRender_iff.2 ⟨j, hj, hne, rfl⟩)) ⟨hs, hi⟩
  · obtain ⟨_, ho', rfl⟩ := List.mem_map.1 ho
    obtain ⟨j, hj, -, rfl⟩ := mem_opsRender_iff.1 ho'
    exact .inr ⟨j, hj, hs, hi, heq⟩

theorem Display.apply_opsRender_other (p : Params) (d : Display) (old new : Bitmap) (fg bg : Half) (seg : BitVec 3)
    (h : slot' ≠ slot) :
    d.apply ((opsRender slot old new fg bg).map (SegOp.present p)) slot' seg = d slot' seg := by
  rcases d.apply_opsRender_cases p slot old new fg bg slot' seg with ⟨heq, -⟩ | ⟨j, -, hs, -⟩
  · exact heq
  · exact absurd hs h

/-- No op fills a segment of index 7. -/
theorem Display.apply_opsRender_noSegment (p : Params) (d : Display) (slot : Slot) (old new : Bitmap) (fg bg : Half)
    (slot' : Slot) (h : ¬ seg.toNat ≤ 6) :
    d.apply ((opsRender slot old new fg bg).map (SegOp.present p)) slot' seg = d slot' seg := by
  rcases d.apply_opsRender_cases p slot old new fg bg slot' seg with ⟨heq, -⟩ | ⟨j, hj, -, hi, -⟩
  · exact heq
  · exact absurd ((eq_segOfBit_iff hj).1 hi).1 h

/-- Where the display shows the old bitmap, DSR_RENDER's ops make it show the new one. -/
theorem Display.Shows.apply_opsRender (p : Params) (h : d.Shows slot old fg bg) (new : Bitmap) :
    (d.apply ((opsRender slot old new fg bg).map (SegOp.present p))).Shows slot new fg bg := by
  intro j hj
  rcases d.apply_opsRender_cases p slot old new fg bg slot (segOfBit j) with ⟨heq, hsame⟩ | ⟨k, hk, -, hseg, heq⟩
  · rw [heq, h j hj, hsame j hj rfl rfl]
  · obtain rfl : j = k := ((eq_segOfBit_iff hj).1 rfl).2.trans ((eq_segOfBit_iff hk).1 hseg).2.symm
    exact heq

/-- A background display shows the sentinel, whatever the foreground. -/
theorem Display.shows_sentinel (h : ∀ j ∈ canonicalBits, d slot (segOfBit j) = bg) (fg : Half) : d.Shows slot 0#7 fg bg :=
  fun j hj => by rw [h j hj, BitVec.getLsbD_zero]; rfl

/-- Settles O29: the same bits differ either way, and of two bits that differ one is 1; a display that shows the old bitmap
again is as it was, since it has no other segments that ops fill. -/
theorem renderBackIsTheInverse : Obligations.RenderBackIsTheInverse := by
  unfold Obligations.RenderBackIsTheInverse
  intro slot old new fg bg
  refine ⟨?_, fun p d hd => ?_⟩
  · have hdiff : (fun j => new.getLsbD j != old.getLsbD j) = fun j => old.getLsbD j != new.getLsbD j :=
      funext fun j => bne_comm
    rw [opsRender_eq_map, opsRender_eq_map, hdiff, List.map_map]
    refine List.map_congr_left fun j hj => ?_
    have hne : old.getLsbD j ≠ new.getLsbD j := bne_iff_ne.1 (List.mem_filter.1 hj).2
    have hold : old.getLsbD j = !new.getLsbD j := Bool.eq_not_of_ne hne
    simp [renderOp, hold]
  · funext slot' seg
    by_cases hs : slot' = slot
    · subst hs
      by_cases hseg : seg.toNat ≤ 6
      · have hj : 6 - seg.toNat ∈ canonicalBits := mem_canonicalBits_iff.2 (by omega)
        rw [(eq_segOfBit_iff hj).2 ⟨hseg, rfl⟩, (hd.apply_opsRender p new).apply_opsRender p old _ hj, hd _ hj]
      · rw [Display.apply_opsRender_noSegment p _ _ _ _ _ _ _ hseg, Display.apply_opsRender_noSegment p _ _ _ _ _ _ _ hseg]
    · rw [Display.apply_opsRender_other p _ _ _ _ _ _ hs, Display.apply_opsRender_other p _ _ _ _ _ _ hs]

/-! ### Acceptance of a DSR command (R41, R143, R145 to R148) -/

/-- The accepted state written out: op 0 of the list, if any, is on the port. -/
theorem State.acceptDsr_eq (op : BitVec 4) (arg : BitVec 8) (slot : Slot) (ops : List SegOp) (s : State) :
    s.acceptDsr op arg slot ops = { s with
      lat := ⟨op, arg, slot, s.fg, s.bg⟩
      seq := { s.seq with mode := .dsrRun, ops := ops, j := 0 }
      seg := ops.head?.map
        fun o => ⟨o.slot, o.seg, o.color, o.erase, if o.slot = .left then s.params.xoffLeft else s.params.xoffRight⟩ } := by
  rw [← funext (SegOp.present_eq s.params), List.head?_eq_getElem?]
  rfl

/-- Settles O17: an offer at an idle block is `acceptDsr` of the command's op list. -/
theorem dsrCommandsAreAccepted : Obligations.DsrCommandsAreAccepted := by
  unfold Obligations.DsrCommandsAreAccepted
  intro s hb
  refine ⟨fun slot digit new hnew => ?_, (State.offer_idle _ hb).trans (by rw [State.acceptDsr_eq]; rfl)⟩
  have hrom : rom digit = some new := hnew
  refine ⟨(State.offer_idle _ hb).trans ?_, (State.offer_idle _ hb).trans ?_⟩
  · rw [State.acceptRenderFirst, hrom]
    exact congrArg _ (State.acceptDsr_eq _ _ _ _ _)
  · rw [State.acceptRender, hrom]
    exact congrArg _ (State.acceptDsr_eq _ _ _ _ _)

/-! ### A stalled sink (R145, R202) -/

/-- An edge leaves a command whose offered op is not accepted. -/
theorem State.advance_of_stalled (hm : s.seq.mode = .dsrRun) (hseg : s.seg ≠ none) (hready : s.segReady = false) :
    s.advance = s := by
  obtain ⟨out, hout⟩ := Option.ne_none_iff_exists'.1 hseg
  simp [State.advance, hm, State.dsrAdvance, State.opsEnd, hout, hready]

/-- Settles O33: a busy block's step leaves what its edge made of the sequencer, and the edge leaves it. -/
theorem stalledSinkHoldsTheOp : Obligations.StalledSinkHoldsTheOp := by
  unfold Obligations.StalledSinkHoldsTheOp
  intro s hm hseg hready hr
  have hb : s.busy = true := (State.busy_eq_true_iff s).2 (.inr hm)
  have ha := State.advance_of_stalled hm hseg hready
  obtain ⟨t, ht, hc, -⟩ := step_of_busy hr hb
  have hseq : t.seq = s.seq := by rw [hc.seq, State.edge_seq, ha]
  refine ⟨t, ht, ?_, hseq, (State.busy_congr (congrArg _ hseq)).trans hb, ?_, ?_, ?_, ?_⟩
  · rw [hc.seg, State.edge_seg, ha]
  · rw [hc.lat, State.edge_lat]
  · rw [hc.slotLeft, State.edge_slotLeft, ha]
  · rw [hc.slotRight, State.edge_slotRight, ha]
  · rw [hc.owDriveLow, State.edge_owDriveLow, ha]

/-! ### The run of a DSR command (R146 to R148, R154) -/

/-- The sink, with `seg_ready` as `e` gives it, accepts the last of the ops at the edge after `m` others; a command without ops
completes at its first edge (R145, R154). -/
abbrev Env.AcceptsLastAt (e : Env) (ops : List SegOp) (m : Nat) : Prop :=
  e.readyCount m < ops.length ∧ e.readyCount (m + 1) = ops.length ∨ ops = [] ∧ m = 0

/-- The slots a DSR command `i` offered in `s` leaves (R146 to R148). -/
structure SlotsWritten (s : State) (i : Instr) (u : State) : Prop where
  render : ∀ slot digit, i = .dsrRenderFirst slot digit ∨ i = .dsrRender slot digit →
    some (u.slot slot) = rom digit ∧ ∀ other, other ≠ slot → u.slot other = s.slot other
  invalidate : i = .dsrInvalidate → u.slotLeft = 0#7 ∧ u.slotRight = 0#7

/-- The slot file after the completion of a render. -/
theorem DsrDone.slot_render {z : State} (h : DsrDone z u) (hop : z.lat.op = 0x8#4 ∨ z.lat.op = 0x9#4)
    (hrom : rom (argDigit z.lat.arg) = some new) (other : Slot) :
    u.slot other = if other = z.lat.slot then new else z.slot other := by
  obtain ⟨r, hlat, hl, hr, hul, hur⟩ := h.slots
  rw [← hlat] at hop hrom ⊢
  rw [State.slot_congr hul hur, State.finishDsr_render hop hrom, State.slot_setSlot, State.slot_congr hl hr]

/-- The slot file after the completion of an invalidate. -/
theorem DsrDone.slot_invalidate {z : State} (h : DsrDone z u) (hop : z.lat.op = 0xA#4) (slot : Slot) : u.slot slot = 0#7 := by
  obtain ⟨r, hlat, -, -, hul, hur⟩ := h.slots
  rw [← hlat] at hop
  rw [State.slot_congr hul hur, State.finishDsr_invalidate hop]
  cases slot <;> rfl

/-- A completed DSR command has written the slots its instruction names. -/
theorem DsrDone.slotsWritten {arg : BitVec 8} {lslot : Slot} (h : DsrDone (s.acceptDsr i.op arg lslot ops) u)
    (hargs : ∀ slot digit, i = .dsrRenderFirst slot digit ∨ i = .dsrRender slot digit →
      arg = digitArg digit ∧ lslot = slot ∧ (rom digit).isSome) : SlotsWritten s i u where
  render := by
    intro slot digit hi
    obtain ⟨rfl, rfl, hsome⟩ := hargs slot digit hi
    obtain ⟨new, hnew⟩ := Option.isSome_iff_exists.1 hsome
    have hop : i.op = 0x8#4 ∨ i.op = 0x9#4 := hi.imp (congrArg Instr.op) (congrArg Instr.op)
    have hslot := h.slot_render hop (new := new) (by rw [State.acceptDsr_lat, argDigit_digitArg, hnew])
    refine ⟨?_, fun other hne => ?_⟩
    · rw [hslot, hnew]
      exact congrArg some (if_pos rfl)
    · exact (hslot other).trans ((if_neg hne).trans (State.slot_congr rfl rfl other))
  invalidate := by
    rintro rfl
    exact ⟨h.slot_invalidate rfl .left, h.slot_invalidate rfl .right⟩

/-- Until its completion an accepted DSR command is busy and has not touched the slots. -/
theorem dsrCommand_busy (hb : s.busy = false) (hops : dsrOps s i = some ops) (hexec : exec i s = .next t)
    (hnr : s.NoReset (m + 1)) (hm : s.env.AcceptsLastAt ops m) {k : Nat} (hk : k ≤ m) :
    ∃ v, run k t = .next v ∧ v.busy = true ∧ v.slotLeft = s.slotLeft ∧ v.slotRight = s.slotRight := by
  obtain ⟨arg, lslot, hexec', -⟩ := exec_of_dsrOps hb hops
  cases hexec.symm.trans hexec'
  have hat := acceptDsr_at (s := s) i.op arg lslot ops
  rcases hm with ⟨hlt, -⟩ | ⟨-, rfl⟩
  · have hlt' := Nat.lt_of_le_of_lt (s.env.readyCount_mono hk) hlt
    obtain ⟨v, hv, hvat, -⟩ := hat.runOps k hlt' fun j hj => hnr.hostAt (by omega)
    exact ⟨v, hv, hvat.busy, hvat.slotLeft, hvat.slotRight⟩
  · obtain rfl := Nat.le_zero.1 hk
    exact ⟨_, rfl, hat.busy, rfl, rfl⟩

/-- At its completion a DSR command has emitted its ops and written its slots; the results of the OW unit are those of `s`,
and so are the host's registers if the host writes nothing. -/
theorem dsrCommand_completes (hb : s.busy = false) (hops : dsrOps s i = some ops) (hexec : exec i s = .next t)
    (hnr : s.NoReset (m + 1)) (hm : s.env.AcceptsLastAt ops m) :
    ∃ u, run (m + 1) t = .next u ∧ acceptedOps (m + 1) t = ops.map (SegOp.present s.params) ∧
      u.busy = false ∧ u.done = true ∧ SlotsWritten s i u ∧
      u.rdata = s.rdata ∧ u.presence = s.presence ∧ u.presValid = s.presValid ∧
      (s.NoWrite (m + 1) → HostRegistersKept s u) := by
  obtain ⟨arg, lslot, hexec', hargs⟩ := exec_of_dsrOps hb hops
  cases hexec.symm.trans hexec'
  obtain ⟨u, hu, hdone, hacc⟩ := (acceptDsr_at (s := s) i.op arg lslot ops).runAll m hm fun j hj => hnr.hostAt hj
  exact ⟨u, hu, hacc, hdone.busy, hdone.done, hdone.slotsWritten hargs, hdone.rdata, hdone.presence, hdone.presValid,
    fun hnw => run_hostRegistersKept (s := s.acceptDsr i.op arg lslot ops) hnr hnw hu⟩

/-- With `seg_ready` = 1 throughout an op is accepted at every edge. -/
theorem Env.readyCount_of_ready {e : Env} (h : ∀ k < m, e.segReadyAt k = true) : e.readyCount m = m := by
  rw [Env.readyCount, List.filter_eq_self.2 fun k hk => h k (List.mem_range.1 hk), List.length_range]

/-- The latency with `seg_ready` = 1 throughout (R154). -/
theorem Env.acceptsLastAt_of_ready {e : Env} (hm : m + 1 = max ops.length 1)
    (h : ∀ k < max ops.length 1, e.segReadyAt k = true) : e.AcceptsLastAt ops m := by
  rw [← hm] at h
  rcases Nat.eq_zero_or_pos ops.length with h0 | hpos
  · exact .inr ⟨List.length_eq_zero_iff.1 h0, by omega⟩
  · refine .inl ⟨?_, ?_⟩
    · rw [Env.readyCount_of_ready fun k hk => h k (by omega)]; omega
    · rw [Env.readyCount_of_ready h]; omega

/-- Settles O31, from the command's run up to its completion and at it. -/
theorem dsrCommandWritesItsSlot : Obligations.DsrCommandWritesItsSlot := by
  unfold Obligations.DsrCommandWritesItsSlot
  intro i ops s hb hops
  obtain ⟨arg, lslot, hexec, -⟩ := exec_of_dsrOps hb hops
  refine ⟨_, hexec, fun m hnr hm => ⟨fun k hk => dsrCommand_busy hb hops hexec hnr hm hk, ?_⟩, fun hnr hready => ?_⟩
  · obtain ⟨u, hu, -, hbusy, hdone, hslots, hrdata, hpres, hvalid, hkept⟩ := dsrCommand_completes hb hops hexec hnr hm
    exact ⟨u, hu, hbusy, hdone, hslots.render, hslots.invalidate, hrdata, hpres, hvalid, hkept⟩
  · obtain ⟨m, hmax⟩ : ∃ m, m + 1 = max ops.length 1 := ⟨max ops.length 1 - 1, by omega⟩
    have hm := Env.acceptsLastAt_of_ready hmax hready
    rw [← hmax] at hnr ⊢
    obtain ⟨u, hu, -, hbusy, hdone, -⟩ := dsrCommand_completes hb hops hexec hnr hm
    refine ⟨fun k hk => ?_, u, hu, hbusy, hdone⟩
    obtain ⟨v, hv, hvbusy, -⟩ := dsrCommand_busy hb hops hexec hnr hm (Nat.le_of_lt_succ hk)
    exact ⟨v, hv, hvbusy⟩

/-- Settles O32: the op list is empty, and the bitmap written is the one the slot holds. -/
theorem renderOfSameDigitEmitsNothing : Obligations.RenderOfSameDigitEmitsNothing := by
  unfold Obligations.RenderOfSameDigitEmitsNothing
  intro slot digit s hb hrom hnr
  have hops : dsrOps s (.dsrRender slot digit) = some [] := by rw [dsrOps, ← hrom, Option.map_some, opsRender_self]
  obtain ⟨arg, lslot, hexec, -⟩ := exec_of_dsrOps hb hops
  obtain ⟨u, hu, hacc, hbusy, hdone, hslots, -⟩ := dsrCommand_completes hb hops hexec hnr (.inr ⟨rfl, rfl⟩)
  obtain ⟨hnew, hothers⟩ := hslots.render slot digit (.inr rfl)
  have hkept : ∀ slot', u.slot slot' = s.slot slot' := fun slot' => by
    by_cases h : slot' = slot
    · rw [h]; exact Option.some.inj (hnew.trans hrom.symm)
    · exact hothers slot' h
  exact ⟨_, u, hexec, rfl, hu, hacc, hbusy, hdone, hkept .left, hkept .right⟩

/-! ### The display invariant (R153) -/

/-- Settles O34: the ops accepted by the completion are DSR_RENDER's from the slot's bitmap to the new one. -/
theorem renderKeepsTheDisplayInvariant : Obligations.RenderKeepsTheDisplayInvariant := by
  unfold Obligations.RenderKeepsTheDisplayInvariant
  intro slot digit new s d m hb hrom hshows hnr hm
  have hops : dsrOps s (.dsrRender slot digit) = some (opsRender slot (s.slot slot) new s.fg s.bg) := by
    rw [dsrOps, hrom, Option.map_some]
  have hlast : s.env.AcceptsLastAt (opsRender slot (s.slot slot) new s.fg s.bg) m := by
    rw [Env.AcceptsLastAt, opsRender_length]
    exact hm.imp_right fun ⟨hsame, h0⟩ => ⟨by rw [hsame, opsRender_self], h0⟩
  obtain ⟨arg, lslot, hexec, -⟩ := exec_of_dsrOps hb hops
  obtain ⟨u, hu, hacc, hbusy, -, hslots, -⟩ := dsrCommand_completes hb hops hexec hnr hlast
  have hnew : u.slot slot = new := Option.some.inj ((hslots.render slot digit (.inr rfl)).1.trans hrom)
  refine ⟨_, u, hexec, hu, hbusy, hnew, ?_, fun other seg hne => ?_⟩
  · rw [hacc, hnew]
    exact hshows.apply_opsRender _ new
  · rw [hacc]
    exact Display.apply_opsRender_other _ _ _ _ _ _ _ hne

/-- Settles O35: DSR_RENDER_FIRST's ops are DSR_RENDER's from the sentinel, which the cleared display shows. -/
theorem renderFirstOnABlankSlotShowsTheDigit : Obligations.RenderFirstOnABlankSlotShowsTheDigit := by
  unfold Obligations.RenderFirstOnABlankSlotShowsTheDigit
  refine ⟨fun d slot fg bg h => Display.shows_sentinel h fg, fun slot digit new bg s d m hb hrom _ hblank hnr hlt heq => ?_⟩
  have hops : dsrOps s (.dsrRenderFirst slot digit) = some (opsRender slot 0#7 new s.fg bg) := by
    rw [dsrOps, hrom, Option.map_some, renderFromSentinelIsRenderFirst]
  have hlast : s.env.AcceptsLastAt (opsRender slot 0#7 new s.fg bg) m := by
    rw [Env.AcceptsLastAt, opsRender_length, BitVec.zero_xor]
    exact .inl ⟨hlt, heq⟩
  obtain ⟨arg, lslot, hexec, -⟩ := exec_of_dsrOps hb hops
  obtain ⟨u, hu, hacc, hbusy, -, hslots, -⟩ := dsrCommand_completes hb hops hexec hnr hlast
  refine ⟨_, u, hexec, hu, hbusy, Option.some.inj ((hslots.render slot digit (.inl rfl)).1.trans hrom), ?_⟩
  rw [hacc]
  exact (Display.shows_sentinel hblank s.fg).apply_opsRender _ new

end Sys2Proof.Machine

/-! PROOFS. The statements of 60_exceptions.md: a step that offers a command (R171, R173, R175), the frame of acceptance (R198),
`irq` (R177), the phase counter's width (R181), and that no step stops (R170). -/

namespace Sys2Proof.Machine

variable {s t : State} {i : Instr} {c : Cause}

/-! ### A word written to CMD (R171) -/

theorem State.verdict_of_busy (hb : s.busy = true) (w : Word) : s.verdict w = .reject .overrun := by
  rw [State.verdict, if_pos hb]

theorem State.verdict_of_idle (hb : s.busy = false) (w : Word) : s.verdict w = decode w := by
  simp [State.verdict, hb]

/-- A CMD write offers the word written. -/
theorem State.offered_of_cmd_write (hw : s.hostPort.hWr = true) (hi : regIndex s.hostPort.hAddr = 0) :
    s.offered = some s.hostPort.hWdata :=
  (offered_eq_some_iff s _).2 ⟨hw, hi, rfl⟩

/-- A rejection written out: the flag of the cause, its code, and nothing else (R172, R175). -/
theorem State.cmdError_eq (c : Cause) (s : State) :
    s.cmdError c = { s with
      overrun := s.overrun || decide (c = .overrun)
      cmdErr := s.cmdErr || decide (c ≠ .overrun)
      cause := if c = .reservedOpcode then 1#4 else if c = .reservedField then 2#4 else if c = .digitRange then 3#4 else 4#4 } := by
  cases c <;> simp [State.cmdError, causeCode]

/-- Settles O12: with the write the step is the edge and then the rejection, without it the edge alone. -/
theorem rejectionRecordsOnlyItsCause : Obligations.RejectionRecordsOnlyItsCause := by
  unfold Obligations.RejectionRecordsOnlyItsCause
  intro s c hr hw hi hcause
  have hv : s.verdict s.hostPort.hWdata = .reject c := by
    rcases hcause with ⟨hb, rfl⟩ | ⟨hb, hd⟩
    · exact State.verdict_of_busy hb _
    · rw [State.verdict_of_idle hb, hd]
  refine ⟨s.edge, step_without_write hr, ?_⟩
  rw [step_of_reject hr (State.offered_of_cmd_write hw hi) hv, State.cmdError_eq]

/-- Settles O13: a busy block's verdict on any word is OVERRUN, and the edge with its completion is taken first. -/
theorem writeWhileBusyIsOverrun : Obligations.WriteWhileBusyIsOverrun := by
  unfold Obligations.WriteWhileBusyIsOverrun
  intro s hr hw hi hb
  exact ⟨s.edge, step_without_write hr,
    step_of_reject hr (State.offered_of_cmd_write hw hi) (State.verdict_of_busy hb _)⟩

/-- Settles O11: the step is exec at the edge's state, which of an idle block is as the statement writes it. -/
theorem stepRunsTheDecodedCommand : Obligations.StepRunsTheDecodedCommand := by
  unfold Obligations.StepRunsTheDecodedCommand
  intro s i hr hw hi hb hd
  have hv : s.verdict s.hostPort.hWdata = .command i := by rw [State.verdict_of_idle hb, hd]
  rw [step_of_command hr (State.offered_of_cmd_write hw hi) hv, State.edge_of_idle hb]

/-! ### No step stops (R88, R170) -/

/-- exec answers a next state for every command, from every state: each arm is an offer. -/
theorem exec_next (i : Instr) (s : State) : ∃ t, exec i s = .next t := by
  cases i <;> exact ⟨_, rfl⟩

/-- Settles O15: each branch of a step answers a next state, and the accepting one does so as exec does. -/
theorem everyStepHasANextState : Obligations.EveryStepHasANextState := by
  unfold Obligations.EveryStepHasANextState
  intro s
  cases hr : s.hostPort.rst with
  | true => exact ⟨_, step_of_reset hr⟩
  | false =>
    cases ho : s.offered with
    | none => exact ⟨_, step_of_no_offer hr ho⟩
    | some w =>
      cases hv : s.verdict w with
      | reject c => exact ⟨_, step_of_reject hr ho hv⟩
      | command i => rw [step_of_command hr ho hv]; exact exec_next i s.edge

/-! ### The frame of acceptance (R171, R198) -/

/-- `t` is `s` but for the latches, the sequencer and the outputs of the two units, and runs a command. -/
def Starts (s t : State) : Prop :=
  t.busy = true ∧ ∃ lat seq drive seg, t = { s with lat := lat, seq := seq, owDriveLow := drive, seg := seg }

theorem AcceptsOw.starts (h : AcceptsOw s i t) : Starts s t := by
  obtain ⟨arg, wave, hw, rfl, -⟩ := h
  obtain ⟨ph, rest, rfl⟩ := owWave_ne_nil hw
  exact ⟨acceptOw_busy _ _ _ _, _, _, _, _, State.acceptOw_cons _ _ _ _ _⟩

theorem AcceptsDsr.starts (h : AcceptsDsr s i t) : Starts s t := by
  obtain ⟨arg, slot, ops, -, rfl, -⟩ := h
  exact ⟨acceptDsr_busy _ _ _ _ _, _, _, _, _, State.acceptDsr_eq _ _ _ _ _⟩

/-- Every well-formed command starts at an idle block (R171). -/
theorem exec_starts (hwf : i.WellFormed) (hb : s.busy = false) : ∃ t, exec i s = .next t ∧ Starts s t := by
  obtain ⟨t, ht⟩ := exec_next i s
  refine ⟨t, ht, ?_⟩
  rcases exec_idle hb ht with h | h | ⟨hno, -⟩
  · exact h.starts
  · exact h.starts
  · rw [hwf] at hno; cases hno

/-- A 1 in place of a 0 below `x` sets bit 0. -/
theorem setWidth_append_true {n : Nat} (x : BitVec n) (m : Nat) :
    (x ++ BitVec.ofBool true).setWidth m = (x ++ BitVec.ofBool false).setWidth m ||| 1#m := by
  apply BitVec.eq_of_getLsbD_eq
  intro j hj
  cases j with
  | zero => simp [hj, BitVec.getLsbD_append]
  | succ j => simp [hj, BitVec.getLsbD_append]

theorem Starts.statusWord (h : Starts s t) (hb : s.busy = false) : t.statusWord = s.statusWord ||| 1#32 := by
  obtain ⟨hbt, lat, seq, drive, seg, rfl⟩ := h
  unfold State.statusWord
  rw [hbt, hb, setWidth_append_true]

/-- Outside STATUS no register shows what a starting command changes. -/
theorem Starts.regRead (h : Starts s t) {off : BitVec 5} (hoff : regIndex off ≠ 1) : t.regRead off = s.regRead off := by
  obtain ⟨-, lat, seq, drive, seg, rfl⟩ := h
  unfold State.regRead
  split
  case h_2 h1 => exact absurd h1 hoff
  all_goals rfl

/-- Settles O18: a started command stands in BUSY alone among the registers. -/
theorem acceptanceChangesOnlyBusy : Obligations.AcceptanceChangesOnlyBusy := by
  unfold Obligations.AcceptanceChangesOnlyBusy
  intro i s hwf hb
  obtain ⟨t, ht, hstarts⟩ := exec_starts hwf hb
  refine ⟨t, ht, fun off hoff => hstarts.regRead hoff, hstarts.statusWord hb, ?_⟩
  obtain ⟨-, lat, seq, drive, seg, rfl⟩ := hstarts
  exact ⟨rfl, rfl, rfl, rfl⟩

/-! ### The interrupt (R177) -/

/-- `irq` after a step without reset comes from the flags and enables before it, whatever kind of step it is. -/
theorem step_irq (hr : s.hostPort.rst = false) (h : step s = .next t) : t.irq = s.irqNext := by
  rcases step_kinds h with ⟨h1, -⟩ | ⟨-, -, rfl⟩ | ⟨-, w, c, -, -, rfl⟩ |
    ⟨-, -, w, i, -, -, ⟨arg, wave, -, rfl, -⟩ | ⟨arg, slot, ops, -, rfl, -⟩⟩
  · rw [hr] at h1; cases h1
  · exact (plainEdge_sameCore s).irq
  · exact State.cmdError_irq c s.edge
  · exact State.acceptOw_irq _ _ _ s.edge
  · exact State.acceptDsr_irq _ _ _ _ s.edge

/-- Settles O36: the statement writes out `State.irqNext`. -/
theorem irqFollowsItsSources : Obligations.IrqFollowsItsSources := by
  unfold Obligations.IrqFollowsItsSources
  intro s t hr h
  exact step_irq hr h

/-! ### The phase counter (R181) -/

/-- Every phase of an OW command's waveform has a length in ticks that CNT_WIDTH bits hold (R7). -/
theorem owWave_ticks_lt {p : Params} {wave : List Phase} (hp : p.Ok) (hw : owWave p i = some wave) :
    ∀ ph ∈ wave, ph.us * p.ticksPerUs < 2 ^ p.cntWidth := by
  obtain ⟨-, -, -, -, -, -, -, hwidth, -⟩ := hp
  exact fun ph hm => hwidth ph.us (owWave_mem hw ph hm)

/-- Settles O43: the ticks left are at most those of the running phase, which is a phase of an OW command's waveform. -/
theorem phaseCounterFitsItsWidth : Obligations.PhaseCounterFitsItsWidth := by
  unfold Obligations.PhaseCounterFitsItsWidth
  rintro s ⟨hp, -, -, -, -, -, -, -, hrun, -⟩ hm
  obtain ⟨-, hlat, hk, hpos, hphase⟩ := hrun hm
  obtain ⟨i, hw⟩ := State.latWave_some hlat
  obtain ⟨hle, -⟩ := hphase _ (List.getElem?_eq_getElem hk)
  exact ⟨hpos, hle.trans_lt (owWave_ticks_lt hp hw _ (List.getElem_mem hk))⟩

end Sys2Proof.Machine

/-! PROOFS. The statement of 70_reset_and_hazards.md: the reset edge (R190, R191). -/

namespace Sys2Proof.Machine

/-- Settles O38: a reset edge goes to `State.resetWith` whatever the state was (R190), and its fields are the values listed. -/
theorem resetEdgeResetsEverything : Obligations.ResetEdgeResetsEverything := by
  unfold Obligations.ResetEdgeResetsEverything
  intro s hr
  refine ⟨s.resetEdge, step_of_reset hr, ?_⟩
  and_intros <;> rfl

end Sys2Proof.Machine

/-! PROOFS. Words of 95_test_vectors.md and what they decode to (30_encoding.md R83, R85 to R87), and the commands that exec
turns away (60_exceptions.md R173, R175). -/

namespace Sys2Proof

variable {w : Word} {i : Instr}

/-! ### Words of 95_test_vectors.md -/

/-- A word that is the encoding of a well-formed command decodes to it. -/
theorem decode_of_encode_eq (hwf : i.WellFormed) (h : encode i = w) : decode w = .command i :=
  h ▸ decodeEncodeRoundTrip i hwf

/-- Settles O5: seven words are the encodings of their commands; the last three fail one check each, in the decoder's order. -/
theorem specWordsDecode : Obligations.SpecWordsDecode := by
  unfold Obligations.SpecWordsDecode
  refine ⟨decode_of_encode_eq rfl rfl, decode_of_encode_eq rfl rfl, decode_of_encode_eq rfl rfl, decode_of_encode_eq rfl rfl,
    decode_of_encode_eq rfl rfl, decode_of_encode_eq rfl rfl, decode_of_encode_eq rfl rfl,
    ?reservedOpcode, ?reservedField, ?digitRange⟩
  case reservedOpcode => exact decode_of_opcodeMap_none rfl
  case reservedField => exact decode_reservedField rfl (by decide)
  case digitRange => exact decode_digitRange rfl rfl (by decide)

end Sys2Proof

namespace Sys2Proof.Machine

variable {s : State} {i : Instr}

/-! ### A command that cannot start (R87, R173) -/

/-- exec of any command at a busy block is an overrun: each arm is an offer (R173). -/
theorem exec_busy (hb : s.busy = true) (i : Instr) : exec i s = .next (s.cmdError .overrun) := by
  cases i <;> exact State.offer_busy _ hb

/-- The ROM has no entry for a digit above 9 (R140). -/
theorem rom_eq_none {digit : BitVec 4} (h : 10 ≤ digit.toNat) : rom digit = none :=
  List.getElem?_eq_none h

/-- exec of a render at an idle block rejects a digit above 9 (R87). -/
theorem exec_render_digitRange {slot : Slot} {digit : BitVec 4} (hb : s.busy = false) (hdigit : 10 ≤ digit.toNat)
    (hi : i = .dsrRenderFirst slot digit ∨ i = .dsrRender slot digit) : exec i s = .next (s.cmdError .digitRange) := by
  have hrom := rom_eq_none hdigit
  rcases hi with rfl | rfl
  · exact (State.offer_idle _ hb).trans (by rw [State.acceptRenderFirst, hrom])
  · exact (State.offer_idle _ hb).trans (by rw [State.acceptRender, hrom])

/-- Settles O14: what exec records is the overrun's and the digit's `State.cmdError`, written out. -/
theorem execTurnsAwayByName : Obligations.ExecTurnsAwayByName := by
  unfold Obligations.ExecTurnsAwayByName
  exact ⟨fun i s hb => exec_busy hb i, fun slot digit s hb hdigit =>
    ⟨exec_render_digitRange hb hdigit (.inl rfl), exec_render_digitRange hb hdigit (.inr rfl)⟩⟩

end Sys2Proof.Machine
